-- ==== Sys2Proof/Word.lean ====
section
/-!
DEFINITION. The value types of the 8b10b transcoder core (R10, R43 to R45): bytes, 10-bit codes, raw 16-bit symbols,
the request and response words, the two-valued disparity, and the two records that bundle them.
-/

namespace Sys2Proof

/-- `Byte` = 0..255 (R10). -/
abbrev Byte := BitVec 8

/-- `Sym10` = 0..0x3FF: the code of a Symbol, a number with bit 0 least significant (R9, R10, R40). -/
abbrev Sym10 := BitVec 10

/-- `U16` = 0..0xFFFF: a raw symbol, not yet validated (R10, R45). -/
abbrev U16 := BitVec 16

/-- The 22-bit operation request (R46). -/
abbrev ReqWord := BitVec 22

/-- The 13-bit operation response (R47). -/
abbrev RespWord := BitVec 13

/-- "binary state, `{Negative, Positive}`" (R14). It has no third value. -/
inductive Disparity where
  | negative
  | positive
  deriving DecidableEq, Repr

/-- DataWord: "`{byte: 8-bit value, is_control: boolean, disparity: Disparity}`" (R43). The record constructor IS the
DataWord constructor of R117: no check, no failure. -/
structure DataWord where
  byte      : Byte
  isControl : Bool
  disparity : Disparity
  deriving DecidableEq, Repr

/-- Symbol: "`{code: 10-bit value (invariant: ≤ 0x3FF), disparity: Disparity}`" (R44, R116). The invariant holds by the
width of `code`. -/
structure WireSymbol where
  code      : Sym10
  disparity : Disparity
  deriving DecidableEq, Repr

end Sys2Proof
end

