-- ==== Sys2Proof/Syntax.lean ====
section
/-!
DEFINITION. The eleven operations (R48), one constructor per row of spec/opcode_table.json, with the operand types of
R49. The operands of a constructor stand in the order of the request's fields: disparity, control flag, data.
-/

namespace Sys2Proof

/-- One operation request, decoded. -/
inductive Instr where
  /-- `ENCODE b, k, d` (R88). -/
  | encode (d : Disparity) (k : Bool) (b : Byte)
  /-- `DECODE s, d` (R96). -/
  | decode (d : Disparity) (s : U16)
  /-- `ISCOMMA s` (R83). -/
  | iscomma (s : U16)
  /-- `AFTER d, c` (R71). -/
  | after (d : Disparity) (c : Sym10)
  /-- `FLIP d` (R74). -/
  | flip (d : Disparity)
  /-- `WITHD d, c` (R75). -/
  | withd (d : Disparity) (c : Sym10)
  /-- `SYMCHK s` (R113). -/
  | symchk (s : U16)
  /-- `SYMRAW s`, precondition `s <= 0x3FF` (R114). -/
  | symraw (s : U16)
  /-- `TXSTEP b, k` (R119). -/
  | txstep (k : Bool) (b : Byte)
  /-- `RXSTEP s` (R120). -/
  | rxstep (s : U16)
  /-- `RDSET d` (R121). -/
  | rdset (d : Disparity)
  deriving DecidableEq, Repr

/-- The mnemonic of R48. -/
def Instr.mnemonic : Instr → String
  | .encode _ _ _ => "ENCODE"
  | .decode _ _ => "DECODE"
  | .iscomma _ => "ISCOMMA"
  | .after _ _ => "AFTER"
  | .flip _ => "FLIP"
  | .withd _ _ => "WITHD"
  | .symchk _ => "SYMCHK"
  | .symraw _ => "SYMRAW"
  | .txstep _ _ => "TXSTEP"
  | .rxstep _ => "RXSTEP"
  | .rdset _ => "RDSET"

end Sys2Proof
end

