-- ==== Sys2Proof/WellFormed.lean ====
section
/-!
DEFINITION. Which requests the spec gives a meaning. Operand widths are in the types of `Instr`, so one check is left:
the precondition of `SYMRAW`.
-/

namespace Sys2Proof

/-- `SYMRAW` with `data > 0x3FF` "breaks the caller's contract" (R50 (c), R114); every other operation is total on its
operand types (R12). -/
def Instr.wellFormed : Instr → Bool
  | .encode _ _ _ => true
  | .decode _ _ => true
  | .iscomma _ => true
  | .after _ _ => true
  | .flip _ => true
  | .withd _ _ => true
  | .symchk _ => true
  | .symraw s => decide (s.toNat ≤ 0x3FF)
  | .txstep _ _ => true
  | .rxstep _ => true
  | .rdset _ => true

end Sys2Proof
end

