-- ==== Sys2Proof/Decode.lean ====
section
/-!
DEFINITION. The request word (R46, R48, R49, R50): a decoder total on every 22-bit word that rejects by name, the
encoder written from the same tables, the rows of spec/opcode_table.json as data, and the host's `decodeTableWord`.
-/

namespace Sys2Proof

/-! ### One-bit operands -/

/-- Negative = 0, Positive = 1 (R39). -/
def Disparity.toBit : Disparity → BitVec 1
  | .negative => 0#1
  | .positive => 1#1

/-- The disparity a bit stands for (R39). -/
def Disparity.ofBit (b : BitVec 1) : Disparity :=
  if b = 0#1 then .negative else .positive

/-- A flag as a bit, 1 = true (R46: "1 = `is_control` true"). -/
def flagBit (k : Bool) : BitVec 1 := BitVec.ofBool k

/-- The flag a bit stands for. -/
def bitFlag (b : BitVec 1) : Bool := b == 1#1

/-! ### The request's fields (R46) -/

/-- `op`, bits 21:18. -/
def ReqWord.op (w : ReqWord) : BitVec 4 := w.extractLsb' 18 4

/-- `rd`, bit 17. -/
def ReqWord.rd (w : ReqWord) : BitVec 1 := w.extractLsb' 17 1

/-- `k`, bit 16. -/
def ReqWord.k (w : ReqWord) : BitVec 1 := w.extractLsb' 16 1

/-- `data`, bits 15:0. -/
def ReqWord.data (w : ReqWord) : BitVec 16 := w.extractLsb' 0 16

/-- The request word with the given fields (R46). -/
def packRequest (op : BitVec 4) (rd k : BitVec 1) (data : BitVec 16) : ReqWord :=
  op ++ rd ++ k ++ data

/-- A byte operand: `data[7:0]` taken as is (R52). -/
def dataByte (data : BitVec 16) : Byte := data.extractLsb' 0 8

/-- A code operand: `data[9:0]` taken as is (R52). -/
def dataCode (data : BitVec 16) : Sym10 := data.extractLsb' 0 10

/-- What stands above a byte in `data`: `data[15:8]`, which must be zero (R49). -/
def dataAboveByte (data : BitVec 16) : BitVec 8 := data.extractLsb' 8 8

/-- What stands above a code in `data`: `data[15:10]`, which must be zero (R49). -/
def dataAboveCode (data : BitVec 16) : BitVec 6 := data.extractLsb' 10 6

/-! ### The decoder -/

/-- Why a request word is no operation (R50 (a), (b)). -/
inductive Malformed where
  /-- `op` is 11 to 15: it "select[s] no operation" (R50 (a)). -/
  | reservedOp (op : BitVec 4)
  /-- A must-be-zero field of R49 is not zero (R50 (b)). -/
  | mustBeZero (op : BitVec 4)
  deriving DecidableEq, Repr

/-- The operation `i` if its must-be-zero fields are zero, else the rejection that names its `op`. -/
def checked (op : BitVec 4) (zero : Bool) (i : Instr) : Except Malformed Instr :=
  if zero then .ok i else .error (.mustBeZero op)

/-- The operation a request word asks for, by R48 (operation select) and R49 (operands and must-be-zero fields). A
`SYMRAW` above `0x3FF` decodes, as the note of its row in opcode_table.json says, and is refused by its meaning. -/
def decodeRequest (w : ReqWord) : Except Malformed Instr :=
  let op := ReqWord.op w
  let rd := ReqWord.rd w
  let k := ReqWord.k w
  let data := ReqWord.data w
  let d := Disparity.ofBit rd
  match op.toNat with
  | 0 => checked op (dataAboveByte data == 0#8) (.encode d (bitFlag k) (dataByte data))
  | 1 => checked op (k == 0#1) (.decode d data)
  | 2 => checked op (rd == 0#1 && k == 0#1) (.iscomma data)
  | 3 => checked op (k == 0#1 && dataAboveCode data == 0#6) (.after d (dataCode data))
  | 4 => checked op (k == 0#1 && data == 0#16) (.flip d)
  | 5 => checked op (k == 0#1 && dataAboveCode data == 0#6) (.withd d (dataCode data))
  | 6 => checked op (rd == 0#1 && k == 0#1) (.symchk data)
  | 7 => checked op (rd == 0#1 && k == 0#1) (.symraw data)
  | 8 => checked op (rd == 0#1 && dataAboveByte data == 0#8) (.txstep (bitFlag k) (dataByte data))
  | 9 => checked op (rd == 0#1 && k == 0#1) (.rxstep data)
  | 10 => checked op (k == 0#1 && data == 0#16) (.rdset d)
  | _ => .error (.reservedOp op)

/-! ### The encoder -/

/-- The operation select of R48. -/
def Instr.opcode : Instr → BitVec 4
  | .encode _ _ _ => 0b0000#4
  | .decode _ _ => 0b0001#4
  | .iscomma _ => 0b0010#4
  | .after _ _ => 0b0011#4
  | .flip _ => 0b0100#4
  | .withd _ _ => 0b0101#4
  | .symchk _ => 0b0110#4
  | .symraw _ => 0b0111#4
  | .txstep _ _ => 0b1000#4
  | .rxstep _ => 0b1001#4
  | .rdset _ => 0b1010#4

/-- The disparity operand of R49; the must-be-zero value 0 where the operation has none. -/
def Instr.rdField : Instr → BitVec 1
  | .encode d _ _ => d.toBit
  | .decode d _ => d.toBit
  | .iscomma _ => 0#1
  | .after d _ => d.toBit
  | .flip d => d.toBit
  | .withd d _ => d.toBit
  | .symchk _ => 0#1
  | .symraw _ => 0#1
  | .txstep _ _ => 0#1
  | .rxstep _ => 0#1
  | .rdset d => d.toBit

/-- The control flag operand of R49; 0 where the operation has none. -/
def Instr.kField : Instr → BitVec 1
  | .encode _ k _ => flagBit k
  | .decode _ _ => 0#1
  | .iscomma _ => 0#1
  | .after _ _ => 0#1
  | .flip _ => 0#1
  | .withd _ _ => 0#1
  | .symchk _ => 0#1
  | .symraw _ => 0#1
  | .txstep k _ => flagBit k
  | .rxstep _ => 0#1
  | .rdset _ => 0#1

/-- The data operand of R49, zero-extended (R52). -/
def Instr.dataField : Instr → BitVec 16
  | .encode _ _ b => b.setWidth 16
  | .decode _ s => s
  | .iscomma s => s
  | .after _ c => c.setWidth 16
  | .flip _ => 0#16
  | .withd _ c => c.setWidth 16
  | .symchk s => s
  | .symraw s => s
  | .txstep _ b => b.setWidth 16
  | .rxstep s => s
  | .rdset _ => 0#16

/-- The request word of an operation (R46). -/
def encodeRequest (i : Instr) : ReqWord :=
  packRequest i.opcode i.rdField i.kField i.dataField

/-! ### The operation table as data -/

/-- A row of spec/opcode_table.json: a word is the row's when its bits under `mask` are those of `pattern`. -/
structure OpRow where
  mnemonic : String
  pattern  : ReqWord
  mask     : ReqWord
  deriving DecidableEq, Repr

/-- The word has the row's fixed and must-be-zero bits. -/
def OpRow.holds (r : OpRow) (w : ReqWord) : Bool := w &&& r.mask == r.pattern

/-- The rows of spec/opcode_table.json, in its order. -/
def opcodeTable : List OpRow :=
  [ ⟨"ENCODE", 0x000000#22, 0x3CFF00#22⟩,
    ⟨"DECODE", 0x040000#22, 0x3D0000#22⟩,
    ⟨"ISCOMMA", 0x080000#22, 0x3F0000#22⟩,
    ⟨"AFTER", 0x0C0000#22, 0x3DFC00#22⟩,
    ⟨"FLIP", 0x100000#22, 0x3DFFFF#22⟩,
    ⟨"WITHD", 0x140000#22, 0x3DFC00#22⟩,
    ⟨"SYMCHK", 0x180000#22, 0x3F0000#22⟩,
    ⟨"SYMRAW", 0x1C0000#22, 0x3F0000#22⟩,
    ⟨"TXSTEP", 0x200000#22, 0x3EFF00#22⟩,
    ⟨"RXSTEP", 0x240000#22, 0x3F0000#22⟩,
    ⟨"RDSET", 0x280000#22, 0x3DFFFF#22⟩ ]

/-! ### The host's reader -/

/-- A word of the table as a request: bit 0 of `w` is bit 0 of the request, and every bit above `nbits` is 0. A number
that does not fit 22 bits is no request (R46, R53; log 9). -/
def tableWord (nbits w : Nat) : Option ReqWord :=
  let v := w % 2 ^ nbits
  if v < 2 ^ 22 then some (BitVec.ofNat 22 v) else none

/-- The operation the decoder reads from a word numbered as spec/opcode_table.json numbers it. -/
def decodeTableWord (nbits w : Nat) : Option Instr :=
  match tableWord nbits w with
  | none => none
  | some r => (decodeRequest r).toOption

end Sys2Proof
end

