-- ==== Sys2Proof/Machine/Flags.lean ====
section
/-!
DEFINITION. The running disparity is the block's only status flag (R18); this file holds every computation of it and
the arithmetic it rests on (R153): population count, the sub-blocks of a code, the 10-bit complement, the comma
constants, and band2's `after_symbol`, `flip` and `with_disparity`.
-/

namespace Sys2Proof.Machine

open Sys2Proof

/-- `popcount(v)`: the number of one bits of `v` (R9, R153 (d)). -/
def popcount {w : Nat} (v : BitVec w) : Nat :=
  (List.range w).countP (fun i => v.getLsbD i)

/-- "low 6 bits": `six_part = code[5:0]` (R41; U6 asks for a definition of its own). -/
def sixPart (s : Sym10) : BitVec 6 := s.extractLsb' 0 6

/-- "high 4 bits": `four_part = code[9:6]` (R41). -/
def fourPart (s : Sym10) : BitVec 4 := s.extractLsb' 6 4

/-- `COMMA_NEG = 0b0011111010 = 0x0FA` (R42). -/
def commaNeg : Sym10 := 0b0011111010#10

/-- `COMMA_POS = 0b1100000101 = 0x305` (R42). -/
def commaPos : Sym10 := 0b1100000101#10

/-- `AFTER(d, s)`, band2's `after_symbol`: the next running disparity after symbol `s` at current disparity `d` (R71).
The branch that R73 shows dead is kept, as R73 says. -/
def afterSymbol (d : Disparity) (s : Sym10) : Disparity :=
  if popcount s > 5 then .positive
  else if popcount s < 5 then .negative
  else if popcount (sixPart s) > 3 ∨ popcount (fourPart s) > 2 then .positive
  else if popcount (sixPart s) < 3 ∨ popcount (fourPart s) < 2 then .negative
  else d

/-- `FLIP(d)`, band2's `flip`: "unconditional toggle" (R74). -/
def flipDisparity : Disparity → Disparity
  | .negative => .positive
  | .positive => .negative

/-- The 10-bit complement `(~v) & 0x3FF` (R9, R153 (e)); the mask is the width. -/
def complement10 (v : Sym10) : Sym10 := ~~~v

/-- `WITHD(d, v)`, band2's `with_disparity`: "if Positive, identity; if Negative, bitwise complement masked to the low
10 bits" (R75). -/
def withDisparity (d : Disparity) (v : Sym10) : Sym10 :=
  match d with
  | .positive => v
  | .negative => complement10 v

end Sys2Proof.Machine
end

