-- ==== Sys2Proof/Config.lean ====
section
/-!
DEFINITION. The implementation parameters of the core (R7, R20, R24) and the conditions W1 to W8 of R8 on the table
parameters. They are no state: every function that reads a table takes the configuration as an argument.
-/

namespace Sys2Proof

open Sys2Proof.Machine

/-- The configuration record of R24. `DEC_POS` is derived from `encPos` (R59). -/
structure Config where
  /-- `ENC_POS`: "given a byte (0–255), return its positive-disparity 10-bit symbol (exact, total function)" (R58). -/
  encPos : Byte → Sym10
  /-- `CTRL_TABLE`: the ordered list of pairs (control byte, positive-disparity symbol) (R60). -/
  ctrlTable : List (Byte × Sym10)
  /-- `K28_5_BYTE`: "the designated comma control byte" (R7, R98). -/
  commaByte : Byte
  /-- `RD_INIT`: "Initial state is protocol/caller-defined" (R7, R23). -/
  rdInit : Disparity

namespace Config

/-- The bytes of the control table, in order. -/
def controlBytes (c : Config) : List Byte := c.ctrlTable.map Prod.fst

/-- The symbols of the control table, in order. -/
def controlSymbols (c : Config) : List Sym10 := c.ctrlTable.map Prod.snd

/-- A code is one of the two comma codes (R42). -/
abbrev IsCommaCode (v : Sym10) : Prop := v = commaPos ∨ v = commaNeg

/-- The bit count lies in the closed range [4,6] (R100). -/
abbrev BalancedCount (v : Sym10) : Prop := 4 ≤ popcount v ∧ popcount v ≤ 6

/-- "linear scan over ≤12 entries" (R7, R28, R60). -/
def ShortControlTable (c : Config) : Prop := c.ctrlTable.length ≤ 12

/-- W1 of R8: every table value is at most `0x3FF`; here by its type. -/
def W1 (c : Config) : Prop := ∀ b, (c.encPos b).toNat ≤ 0x3FF

/-- W2 of R8: `ENC_POS` is injective. -/
def W2 (c : Config) : Prop := ∀ b b', c.encPos b = c.encPos b' → b = b'

/-- W3 of R8: the control bytes are pairwise distinct and the control symbols are pairwise distinct (and at most
`0x3FF`, by their type). -/
def W3 (c : Config) : Prop := c.controlBytes.Nodup ∧ c.controlSymbols.Nodup

/-- W4 of R8: no control symbol equals any `ENC_POS[b]`. -/
def W4 (c : Config) : Prop := ∀ p ∈ c.ctrlTable, ∀ b, p.2 ≠ c.encPos b

/-- W5 of R8: every `ENC_POS[b]` has 4, 5 or 6 one bits. -/
def W5 (c : Config) : Prop := ∀ b, BalancedCount (c.encPos b)

/-- W6 of R8: `CTRL_TABLE` contains the pair (`K28_5_BYTE`, `0b1100000101`). -/
def W6 (c : Config) : Prop := (c.commaByte, commaPos) ∈ c.ctrlTable

/-- W7 of R8: no `ENC_POS[b]` is a comma code. -/
def W7 (c : Config) : Prop := ∀ b, ¬ IsCommaCode (c.encPos b)

/-- W8 of R8: no control symbol other than the one paired with `K28_5_BYTE` is a comma code, and every control symbol
has 4, 5 or 6 one bits. -/
def W8 (c : Config) : Prop :=
  ∀ p ∈ c.ctrlTable, (p.1 ≠ c.commaByte → ¬ IsCommaCode p.2) ∧ BalancedCount p.2

/-- Well-formedness of the table parameters (R8), with the size bound of R7. A statement that needs it takes it as a
hypothesis (decision D20). -/
structure WellFormed (c : Config) : Prop where
  short : c.ShortControlTable
  w1 : c.W1
  w2 : c.W2
  w3 : c.W3
  w4 : c.W4
  w5 : c.W5
  w6 : c.W6
  w7 : c.W7
  w8 : c.W8

end Config

end Sys2Proof
end

