-- ==== Sys2Proof/Machine/Tables.lean ====
section
/-!
DEFINITION. The default contents of the table parameters: `ENC_POS` (R66), `CTRL_TABLE` (R67) and `K28_5_BYTE` (R7), and
the configuration `chip` that `exec` and `step` run with. The spec takes these values "from general knowledge, not in
source" (93_implementation_defined.md G1 to G3, G6): PRESUMED, unsafe, log 1 and log 2. Every function takes the
configuration as an argument, and the laws of the block are stated for every configuration.
-/

namespace Sys2Proof.Machine

open Sys2Proof

/-- `ENC_POS` of D0.0 to D31.0 (R66). -/
def dataRow0 : List Sym10 :=
  [0x18B#10, 0x22B#10, 0x12B#10, 0x314#10, 0x0AB#10, 0x294#10, 0x194#10, 0x074#10]
  ++ [0x06B#10, 0x254#10, 0x154#10, 0x344#10, 0x0D4#10, 0x2C4#10, 0x1C4#10, 0x28B#10]
  ++ [0x24B#10, 0x234#10, 0x134#10, 0x324#10, 0x0B4#10, 0x2A4#10, 0x1A4#10, 0x05B#10]
  ++ [0x0CB#10, 0x264#10, 0x164#10, 0x09B#10, 0x0E4#10, 0x11B#10, 0x21B#10, 0x14B#10]

/-- `ENC_POS` of D0.1 to D31.1 (R66). -/
def dataRow1 : List Sym10 :=
  [0x189#10, 0x229#10, 0x129#10, 0x319#10, 0x0A9#10, 0x299#10, 0x199#10, 0x079#10]
  ++ [0x069#10, 0x259#10, 0x159#10, 0x349#10, 0x0D9#10, 0x2C9#10, 0x1C9#10, 0x289#10]
  ++ [0x249#10, 0x239#10, 0x139#10, 0x329#10, 0x0B9#10, 0x2A9#10, 0x1A9#10, 0x059#10]
  ++ [0x0C9#10, 0x269#10, 0x169#10, 0x099#10, 0x0E9#10, 0x119#10, 0x219#10, 0x149#10]

/-- `ENC_POS` of D0.2 to D31.2 (R66). -/
def dataRow2 : List Sym10 :=
  [0x185#10, 0x225#10, 0x125#10, 0x315#10, 0x0A5#10, 0x295#10, 0x195#10, 0x075#10]
  ++ [0x065#10, 0x255#10, 0x155#10, 0x345#10, 0x0D5#10, 0x2C5#10, 0x1C5#10, 0x285#10]
  ++ [0x245#10, 0x235#10, 0x135#10, 0x325#10, 0x0B5#10, 0x2A5#10, 0x1A5#10, 0x055#10]
  ++ [0x0C5#10, 0x265#10, 0x165#10, 0x095#10, 0x0E5#10, 0x115#10, 0x215#10, 0x145#10]

/-- `ENC_POS` of D0.3 to D31.3 (R66). -/
def dataRow3 : List Sym10 :=
  [0x18C#10, 0x22C#10, 0x12C#10, 0x313#10, 0x0AC#10, 0x293#10, 0x193#10, 0x073#10]
  ++ [0x06C#10, 0x253#10, 0x153#10, 0x343#10, 0x0D3#10, 0x2C3#10, 0x1C3#10, 0x28C#10]
  ++ [0x24C#10, 0x233#10, 0x133#10, 0x323#10, 0x0B3#10, 0x2A3#10, 0x1A3#10, 0x05C#10]
  ++ [0x0CC#10, 0x263#10, 0x163#10, 0x09C#10, 0x0E3#10, 0x11C#10, 0x21C#10, 0x14C#10]

/-- `ENC_POS` of D0.4 to D31.4 (R66). -/
def dataRow4 : List Sym10 :=
  [0x18D#10, 0x22D#10, 0x12D#10, 0x312#10, 0x0AD#10, 0x292#10, 0x192#10, 0x072#10]
  ++ [0x06D#10, 0x252#10, 0x152#10, 0x342#10, 0x0D2#10, 0x2C2#10, 0x1C2#10, 0x28D#10]
  ++ [0x24D#10, 0x232#10, 0x132#10, 0x322#10, 0x0B2#10, 0x2A2#10, 0x1A2#10, 0x05D#10]
  ++ [0x0CD#10, 0x262#10, 0x162#10, 0x09D#10, 0x0E2#10, 0x11D#10, 0x21D#10, 0x14D#10]

/-- `ENC_POS` of D0.5 to D31.5 (R66). -/
def dataRow5 : List Sym10 :=
  [0x18A#10, 0x22A#10, 0x12A#10, 0x31A#10, 0x0AA#10, 0x29A#10, 0x19A#10, 0x07A#10]
  ++ [0x06A#10, 0x25A#10, 0x15A#10, 0x34A#10, 0x0DA#10, 0x2CA#10, 0x1CA#10, 0x28A#10]
  ++ [0x24A#10, 0x23A#10, 0x13A#10, 0x32A#10, 0x0BA#10, 0x2AA#10, 0x1AA#10, 0x05A#10]
  ++ [0x0CA#10, 0x26A#10, 0x16A#10, 0x09A#10, 0x0EA#10, 0x11A#10, 0x21A#10, 0x14A#10]

/-- `ENC_POS` of D0.6 to D31.6 (R66). -/
def dataRow6 : List Sym10 :=
  [0x186#10, 0x226#10, 0x126#10, 0x316#10, 0x0A6#10, 0x296#10, 0x196#10, 0x076#10]
  ++ [0x066#10, 0x256#10, 0x156#10, 0x346#10, 0x0D6#10, 0x2C6#10, 0x1C6#10, 0x286#10]
  ++ [0x246#10, 0x236#10, 0x136#10, 0x326#10, 0x0B6#10, 0x2A6#10, 0x1A6#10, 0x056#10]
  ++ [0x0C6#10, 0x266#10, 0x166#10, 0x096#10, 0x0E6#10, 0x116#10, 0x216#10, 0x146#10]

/-- `ENC_POS` of D0.7 to D31.7 (R66). -/
def dataRow7 : List Sym10 :=
  [0x18E#10, 0x22E#10, 0x12E#10, 0x311#10, 0x0AE#10, 0x291#10, 0x191#10, 0x071#10]
  ++ [0x06E#10, 0x251#10, 0x151#10, 0x348#10, 0x0D1#10, 0x2C8#10, 0x1C8#10, 0x28E#10]
  ++ [0x24E#10, 0x231#10, 0x131#10, 0x321#10, 0x0B1#10, 0x2A1#10, 0x1A1#10, 0x05E#10]
  ++ [0x0CE#10, 0x261#10, 0x161#10, 0x09E#10, 0x0E1#10, 0x11E#10, 0x21E#10, 0x14E#10]

/-- The eight rows of 32 entries, by `y = b[7:5]` (R56, R66). -/
def dataRows : List (List Sym10) :=
  [dataRow0, dataRow1, dataRow2, dataRow3] ++ [dataRow4, dataRow5, dataRow6, dataRow7]

/-- `x = b[4:0]` of the label Dx.y or Kx.y (R56). -/
def labelX (b : Byte) : Nat := (b.extractLsb' 0 5).toNat

/-- `y = b[7:5]` of the label Dx.y or Kx.y (R56). -/
def labelY (b : Byte) : Nat := (b.extractLsb' 5 3).toNat

/-- Default `ENC_POS` (R66): entry `x` of row `y`. Both indexes are always in range. -/
def defaultEncPos (b : Byte) : Sym10 := (dataRows.getD (labelY b) []).getD (labelX b) 0#10

/-- Default `CTRL_TABLE` (R67), in its order. -/
def defaultCtrlTable : List (Byte × Sym10) :=
  [ (0x1C#8, 0x30B#10),
    (0x3C#8, 0x306#10),
    (0x5C#8, 0x30A#10),
    (0x7C#8, 0x30C#10),
    (0x9C#8, 0x30D#10),
    (0xBC#8, 0x305#10),
    (0xDC#8, 0x309#10),
    (0xFC#8, 0x307#10),
    (0xF7#8, 0x057#10),
    (0xFB#8, 0x097#10),
    (0xFD#8, 0x117#10),
    (0xFE#8, 0x217#10) ]

/-- Default `K28_5_BYTE` (R7). -/
def defaultCommaByte : Byte := 0xBC#8

/-- The suggested default of `RD_INIT` (R7, R23; DESIGN CHOICE, unsafe, log 2). -/
def defaultRdInit : Disparity := .negative

/-- The configuration `exec`, `step` and `State.reset` use: the spec's defaults (log 1, log 2). -/
def chip : Config where
  encPos := defaultEncPos
  ctrlTable := defaultCtrlTable
  commaByte := defaultCommaByte
  rdInit := defaultRdInit

end Sys2Proof.Machine
end

