-- ==== Sys2Proof/Machine/State.lean ====
section
/-!
DEFINITION. The machine's state as plain data (R24), the caller's inputs and the delivered responses as the host
interface, the reasons a step can stop, and the state after reset (R23, R142).
-/

namespace Sys2Proof.Machine

open Sys2Proof

/-- The response of one operation (R47): `valid`, then the result fields, each 0 where the operation does not define it. -/
structure Response where
  /-- `valid`, bit 12: 1 = the operation returned a value, 0 = it returned `none`. -/
  valid   : Bool
  /-- `rd_out`, bit 11. -/
  rdOut   : BitVec 1
  /-- `k_out`, bit 10. -/
  kOut    : BitVec 1
  /-- `data_out`, bits 9:0. -/
  dataOut : BitVec 10
  deriving DecidableEq, Repr

/-- What the caller does next with its stream context (R6): issue a request word (R46), or reset the context, which it
may do "at any time between operations" (R142). -/
inductive Input where
  | request (w : ReqWord)
  | resetContext
  deriving DecidableEq, Repr

/-- The state of one stream context. `rd` is the whole of the spec's state (R15, R24); `inputs` and `responses` are the
model's own, the two directions of the host interface (log 3, log 4). No operation reads `responses`. -/
structure State where
  /-- `ctx.rd`, the running disparity (R15). -/
  rd : Disparity
  /-- What the caller will issue, next first (R17: "a list of operations a caller issues in order"). -/
  inputs : List Input
  /-- The responses delivered so far, oldest first (R47). -/
  responses : List Response
  deriving DecidableEq, Repr

/-- No step faults: "A model's step function for this block has no fault outcome" (R125). The type has no constructor,
so the absence is checked by the type checker. Nothing raises it; there is nothing unsafe in it. -/
inductive Fault where
  deriving DecidableEq, Repr

/-- A request that the spec gives no meaning: refused, never answered `none` (R50, R131). -/
inductive Refusal where
  /-- Raised by an arm of `exec` whose instruction has no meaning yet; no arm does. Safe. -/
  | notModelled (mnemonic : String)
  /-- Raised by `step` on a request whose `op` is 11 to 15 (R50 (a)). Safe: the spec says to refuse. -/
  | reservedOp (op : BitVec 4)
  /-- Raised by `step` on a request with a must-be-zero field that is not zero (R50 (b)). Safe: the spec says to refuse. -/
  | mustBeZero (op : BitVec 4)
  /-- Raised by `SYMRAW` outside its precondition `s <= 0x3FF` (R50 (c), R114). Safe: the spec says to refuse. -/
  | symrawOutOfRange
  deriving DecidableEq, Repr

/-- What one step answers. -/
abbrev Outcome := Host.Outcome State Fault Refusal

/-- The state of a new stream context under a configuration: `ctx.rd` is `RD_INIT` (R23, R142), nothing issued, nothing
delivered. -/
def State.resetWith (c : Config) : State where
  rd := c.rdInit
  inputs := []
  responses := []

/-- The state right after reset: `ctx.rd` = `RD_INIT`, whose value the spec leaves open and `chip` sets to Negative
(DESIGN CHOICE, unsafe, log 2). -/
def State.reset : State := State.resetWith chip

end Sys2Proof.Machine
end

