-- ==== Sys2Proof/Machine/Operands.lean ====
section
/-!
DEFINITION. Operands and results as the operations see them (R45, R49, R51, R52): the range test of a raw symbol, a
code seen as a raw symbol, and the assembly of every form of response.
-/

namespace Sys2Proof.Machine

open Sys2Proof

/-- A raw symbol is a code: `s <= 0x3FF`, that is `s[15:10] == 0` (R45, R99). -/
def inRange (s : U16) : Bool := decide (s.toNat ≤ 0x3FF)

/-- The code of a raw symbol: `s[9:0]` (R52, R96, R113). -/
def codeOf (s : U16) : Sym10 := s.extractLsb' 0 10

/-- A code as the raw symbol a decoder receives: zero-extended (R11, R52). -/
def rawOf (v : Sym10) : U16 := v.setWidth 16

/-- A byte in `data_out`: `zext_10(byte)` (R52). -/
def byteOut (b : Byte) : BitVec 10 := b.setWidth 10

/-- A Boolean in `data_out[0]`, the other bits 0 (R49, `ISCOMMA`). -/
def boolOut (r : Bool) : BitVec 10 := (BitVec.ofBool r).setWidth 10

/-! ### Responses (R47, R49) -/

/-- `none`: "`valid = 0` with all other bits 0" (R51). -/
def Response.absent : Response := ⟨false, 0#1, 0#1, 0#10⟩

/-- The response to `ENCODE` and `TXSTEP`: a symbol code and the next disparity (R49). -/
def Response.ofSymbol (r : Sym10 × Disparity) : Response := ⟨true, r.2.toBit, 0#1, r.1⟩

/-- The response to `DECODE` and `RXSTEP`: a byte, its control flag and the next disparity, or `none` (R49, R51). -/
def Response.ofDataWord : Option (Byte × Bool × Disparity) → Response
  | some (b, k, d') => ⟨true, d'.toBit, flagBit k, byteOut b⟩
  | none => Response.absent

/-- The response to `ISCOMMA` (R49). -/
def Response.ofBool (r : Bool) : Response := ⟨true, 0#1, 0#1, boolOut r⟩

/-- The response to `AFTER`, `FLIP` and `RDSET`: a disparity (R49). -/
def Response.ofDisparity (d : Disparity) : Response := ⟨true, d.toBit, 0#1, 0#10⟩

/-- The response to `WITHD` and `SYMRAW`: a code (R49). -/
def Response.ofCode (v : Sym10) : Response := ⟨true, 0#1, 0#1, v⟩

/-- The response to `SYMCHK`: a code or `none` (R49, R51). -/
def Response.ofCode? : Option Sym10 → Response
  | some v => Response.ofCode v
  | none => Response.absent

/-- The 13-bit response word: `valid[12]`, `rd_out[11]`, `k_out[10]`, `data_out[9:0]` (R47). -/
def Response.word (r : Response) : RespWord := flagBit r.valid ++ r.rdOut ++ r.kOut ++ r.dataOut

end Sys2Proof.Machine
end

