-- ==== Sys2Proof/Machine/Ops.lean ====
section
/-!
DEFINITION. The named operations every meaning is built from: the table reads (R25 to R30, R57 to R65), the two writes
of State (`ctx.rd`, the delivered response), taking the caller's next input, and the reset of a context. There is no
exception entry and no return from one to model: the block has no traps (R133, R134) and a failure is an ordinary
`none` response (R125), assembled in Operands.
-/

namespace Sys2Proof.Machine

open Sys2Proof

/-! ### Table reads -/

/-- `TblRead(ENC_POS, b)` (R26, R29): total, no side effect. -/
def encPosRead (c : Config) (b : Byte) : Sym10 := c.encPos b

/-- The 256 byte values in ascending order. -/
def allBytes : List Byte := (List.range 256).map (BitVec.ofNat 8)

/-- `DecPos(v)`: the byte `b` with `ENC_POS[b] == v`, or `none` (R59). Under W2 there is at most one; without W2 the
least is taken (log 7). -/
def decPos (c : Config) (v : Sym10) : Option Byte :=
  allBytes.find? (fun b => encPosRead c b == v)

/-- The scan of R61 over the entries, index 0 first; the first match wins. -/
def scanByByte : List (Byte × Sym10) → Byte → Option Sym10
  | [], _ => none
  | (kbyte, ksym) :: rest, b => if kbyte = b then some ksym else scanByByte rest b

/-- `CtrlByByte(b)` (R61). -/
def ctrlByByte (c : Config) (b : Byte) : Option Sym10 := scanByByte c.ctrlTable b

/-- The scan of R62 over the entries, index 0 first; the first match wins. -/
def scanBySym : List (Byte × Sym10) → Sym10 → Option Byte
  | [], _ => none
  | (kbyte, ksym) :: rest, v => if ksym = v then some kbyte else scanBySym rest v

/-- `CtrlBySym(v)` (R62). -/
def ctrlBySym (c : Config) (v : Sym10) : Option Byte := scanBySym c.ctrlTable v

/-- `ResolvePositive(b, k)` (R63): the control table first when `k` is true, with the silent fallback to data. -/
def resolvePositive (c : Config) (b : Byte) (k : Bool) : Sym10 :=
  if k then
    match ctrlByByte c b with
    | some ksym => ksym
    | none => encPosRead c b
  else encPosRead c b

/-! ### Writes -/

/-- `ctx.rd <- d`: "The only write in the whole block" (R30). -/
def State.setRd (s : State) (d : Disparity) : State := { s with rd := d }

/-- The response leaves to the caller (R16, R47). -/
def State.deliver (s : State) (r : Response) : State := { s with responses := s.responses ++ [r] }

/-- The caller's first input has been taken; `rest` are the others. -/
def State.withInputs (s : State) (rest : List Input) : State := { s with inputs := rest }

/-- Reset of a stream context: `ctx.rd <- RD_INIT` and "no other reset effect" (R142). -/
def State.resetContext (c : Config) (s : State) : State := s.setRd c.rdInit

/-! ### Taking the caller's next input -/

/-- What the block is given to do in one step. -/
inductive Fetched where
  /-- Nothing was issued: "the block is simply idle" (R140). -/
  | idle
  /-- The context is reset (R142); the state has the input taken. -/
  | reset (s : State)
  /-- The request selects no operation (R50). -/
  | malformed (m : Malformed)
  /-- The request is operation `i`; the state has the input taken. -/
  | run (i : Instr) (s : State)
  deriving DecidableEq, Repr

/-- Take the caller's next input (R36: "one at a time in the order issued") and decode it. -/
def fetch (s : State) : Fetched :=
  match s.inputs with
  | [] => .idle
  | .resetContext :: rest => .reset (s.withInputs rest)
  | .request w :: rest =>
    match decodeRequest w with
    | .ok i => .run i (s.withInputs rest)
    | .error m => .malformed m

/-- The refusal of a malformed request (R50, R131). -/
def refusalOf : Malformed → Refusal
  | .reservedOp op => .reservedOp op
  | .mustBeZero op => .mustBeZero op

/-- One step of a machine with configuration `c` whose operations mean `ex`: take the next input and do it. -/
def stepBy (c : Config) (ex : Instr → State → Outcome) (s : State) : Outcome :=
  match fetch s with
  | .idle => .next s
  | .reset s' => .next (s'.resetContext c)
  | .malformed m => .refused (refusalOf m)
  | .run i s' => ex i s'

/-- A request put in front of the caller's inputs. -/
def State.issue (s : State) (w : ReqWord) : State := s.withInputs (.request w :: s.inputs)

/-- `k` steps of a machine, stopping at the first fault or refusal. -/
def runBy (st : State → Outcome) : Nat → State → Outcome
  | 0, s => .next s
  | k + 1, s =>
    match st s with
    | .next s' => runBy st k s'
    | .fault r => .fault r
    | .refused r => .refused r

end Sys2Proof.Machine
end

