-- ==== Sys2Proof/Machine/Comma.lean ====
section
/-!
DEFINITION. The comma detector (42_comma.md): `ISCOMMA`. It reads no table (R84), so it takes no configuration.
-/

namespace Sys2Proof.Machine

open Sys2Proof

/-- `ISCOMMA(s)`: "true iff `symbol` equals `0b0011111010` or `0b1100000101`", all sixteen bits compared (R83). -/
def isComma (s : U16) : Bool := s == rawOf commaNeg || s == rawOf commaPos

/-- `ISCOMMA s` (R83). -/
def execIsComma (sym : U16) (s : State) : Outcome :=
  .next (s.deliver (Response.ofBool (isComma sym)))

end Sys2Proof.Machine
end

