-- ==== Sys2Proof/Machine/Decoder.lean ====
section
/-!
DEFINITION. The decoder (44_decoder.md): `DECODE`, with the configuration as an argument, and the operation on `chip`.
The failure kind of R126 is kept for proofs only; the response does not carry it (R51).
-/

namespace Sys2Proof.Machine

open Sys2Proof

/-- The failure kinds of R126. -/
inductive FailureKind where
  /-- F1, "Malformed symbol": above `0x3FF` and no comma code. -/
  | malformedSymbol
  /-- F2, "Disparity-invalid symbol": bit count outside [4,6]. -/
  | disparityInvalid
  /-- F3, "Unmapped symbol": in neither table. -/
  | unmapped
  /-- F4, checked constructor failure: above `0x3FF`. -/
  | constructorRange
  deriving DecidableEq, Repr

/-- Steps 4 to 6 of R96: normalise, look up the control table, then the data table. -/
def lookupSymbol (c : Config) (v : Sym10) (d : Disparity) : Except FailureKind (Byte × Bool × Disparity) :=
  match ctrlBySym c (withDisparity d v) with
  | some kb => .ok (kb, true, afterSymbol d v)
  | none =>
    match decPos c (withDisparity d v) with
    | none => .error .unmapped
    | some db => .ok (db, false, afterSymbol d v)

/-- `DECODE(s, d)` with the kind of its failure: the six steps of R96 in band2's order (R97, R128). -/
def decodeChecked (c : Config) (s : U16) (d : Disparity) : Except FailureKind (Byte × Bool × Disparity) :=
  if isComma s then .ok (c.commaByte, true, flipDisparity d)
  else if inRange s then
    if popcount s < 4 ∨ popcount s > 6 then .error .disparityInvalid
    else lookupSymbol c (codeOf s) d
  else .error .malformedSymbol

/-- `DECODE(s, d)`: `some (b, k, d')` or `none` (R96). -/
def decodeSymbol (c : Config) (s : U16) (d : Disparity) : Option (Byte × Bool × Disparity) :=
  (decodeChecked c s d).toOption

/-- `DECODE d, s` under configuration `c`. -/
def decodeWith (c : Config) (d : Disparity) (sym : U16) (s : State) : Outcome :=
  .next (s.deliver (Response.ofDataWord (decodeSymbol c sym d)))

/-- `DECODE d, s` (R96). -/
def execDecode (d : Disparity) (sym : U16) (s : State) : Outcome := decodeWith chip d sym s

end Sys2Proof.Machine
end

