-- ==== Sys2Proof/Machine/Constructors.lean ====
section
/-!
DEFINITION. The Symbol constructors (45_constructors_and_stream.md section 1): `SYMCHK` and `SYMRAW`.
-/

namespace Sys2Proof.Machine

open Sys2Proof

/-- `SYMCHK(s)` with the kind of its failure (R113, R126 F4). -/
def symbolChecked (s : U16) : Except FailureKind Sym10 :=
  if inRange s then .ok (codeOf s) else .error .constructorRange

/-- `SYMCHK s` (R113). -/
def execSymChk (sym : U16) (s : State) : Outcome :=
  .next (s.deliver (Response.ofCode? (symbolChecked sym).toOption))

/-- `SYMRAW s` (R114): outside the precondition `s <= 0x3FF` it is refused and "does not truncate, wrap or return
`none`". -/
def execSymRaw (sym : U16) (s : State) : Outcome :=
  if inRange sym then .next (s.deliver (Response.ofCode (codeOf sym)))
  else .refused .symrawOutOfRange

end Sys2Proof.Machine
end

