-- ==== Sys2Proof/Machine/Disparity.lean ====
section
/-!
DEFINITION. The disparity family (41_disparity.md): `AFTER`, `FLIP`, `WITHD`. Pure: each delivers one response and
writes nothing else (R13).
-/

namespace Sys2Proof.Machine

open Sys2Proof

/-- `AFTER d, c` (R71). -/
def execAfter (d : Disparity) (c : Sym10) (s : State) : Outcome :=
  .next (s.deliver (Response.ofDisparity (afterSymbol d c)))

/-- `FLIP d` (R74). -/
def execFlip (d : Disparity) (s : State) : Outcome :=
  .next (s.deliver (Response.ofDisparity (flipDisparity d)))

/-- `WITHD d, c` (R75). -/
def execWithd (d : Disparity) (c : Sym10) (s : State) : Outcome :=
  .next (s.deliver (Response.ofCode (withDisparity d c)))

end Sys2Proof.Machine
end

