-- ==== Sys2Proof/Machine/Encoder.lean ====
section
/-!
DEFINITION. The encoder (43_encoder.md): `ENCODE`, with the configuration as an argument, and the operation on `chip`.
-/

namespace Sys2Proof.Machine

open Sys2Proof

/-- `ENCODE(b, k, d)` (R88): the next disparity is computed from the transmitted symbol and `d`, with `AFTER` alone
(R94). -/
def encodeByte (c : Config) (b : Byte) (k : Bool) (d : Disparity) : Sym10 × Disparity :=
  let pos := resolvePositive c b k
  let sym := withDisparity d pos
  (sym, afterSymbol d sym)

/-- The record form of `ENCODE` (R116, 90_conflicts.md C8): the Symbol carries the disparity at which it was produced;
the next disparity is returned beside it. -/
def encodeDataWord (c : Config) (w : DataWord) : WireSymbol × Disparity :=
  let r := encodeByte c w.byte w.isControl w.disparity
  (⟨r.1, w.disparity⟩, r.2)

/-- `ENCODE d, k, b` under configuration `c`. -/
def encodeWith (c : Config) (d : Disparity) (k : Bool) (b : Byte) (s : State) : Outcome :=
  .next (s.deliver (Response.ofSymbol (encodeByte c b k d)))

/-- `ENCODE d, k, b` (R88). -/
def execEncode (d : Disparity) (k : Bool) (b : Byte) (s : State) : Outcome := encodeWith chip d k b s

end Sys2Proof.Machine
end

