-- ==== Sys2Proof/Machine/Stream.lean ====
section
/-!
DEFINITION. The stream operations (45_constructors_and_stream.md section 2): `TXSTEP`, `RXSTEP`, `RDSET`, the only
ones that write `ctx.rd` (R15).
-/

namespace Sys2Proof.Machine

open Sys2Proof

/-- `TXSTEP k, b` under configuration `c`: `ENCODE` at `ctx.rd`, then `ctx.rd <- d'` (R119). -/
def txStepWith (c : Config) (k : Bool) (b : Byte) (s : State) : Outcome :=
  let r := encodeByte c b k s.rd
  .next ((s.setRd r.2).deliver (Response.ofSymbol r))

/-- The next `ctx.rd` of an `RXSTEP`: the decoder's, or the held one on rejection (R120). -/
def rdAfterReceive (held : Disparity) : Option (Byte × Bool × Disparity) → Disparity
  | some (_, _, d') => d'
  | none => held

/-- `RXSTEP s` under configuration `c`: `DECODE` at `ctx.rd`; `ctx.rd <- d'` only when the symbol is accepted (R120). -/
def rxStepWith (c : Config) (sym : U16) (s : State) : Outcome :=
  let r := decodeSymbol c sym s.rd
  .next ((s.setRd (rdAfterReceive s.rd r)).deliver (Response.ofDataWord r))

/-- `TXSTEP k, b` (R119). -/
def execTxStep (k : Bool) (b : Byte) (s : State) : Outcome := txStepWith chip k b s

/-- `RXSTEP s` (R120). -/
def execRxStep (sym : U16) (s : State) : Outcome := rxStepWith chip sym s

/-- `RDSET d` (R121): `ctx.rd <- d ; return d`. -/
def execRdSet (d : Disparity) (s : State) : Outcome :=
  .next ((s.setRd d).deliver (Response.ofDisparity d))

end Sys2Proof.Machine
end

