-- ==== Sys2Proof/Machine/Dispatch.lean ====
section
/-! DEFINITION. What each operation does: one arm per constructor, each a call of its meaning. -/

namespace Sys2Proof.Machine

def exec (i : Instr) (s : State) : Host.Outcome State Fault Refusal :=
  match i with
  | .encode d k b => Sys2Proof.Machine.execEncode d k b s
  | .decode d sym => Sys2Proof.Machine.execDecode d sym s
  | .iscomma sym => Sys2Proof.Machine.execIsComma sym s
  | .after d c => Sys2Proof.Machine.execAfter d c s
  | .flip d => Sys2Proof.Machine.execFlip d s
  | .withd d c => Sys2Proof.Machine.execWithd d c s
  | .symchk sym => Sys2Proof.Machine.execSymChk sym s
  | .symraw sym => Sys2Proof.Machine.execSymRaw sym s
  | .txstep k b => Sys2Proof.Machine.execTxStep k b s
  | .rxstep sym => Sys2Proof.Machine.execRxStep sym s
  | .rdset d => Sys2Proof.Machine.execRdSet d s

end Sys2Proof.Machine
end

