-- ==== Sys2Proof/Machine/Step.lean ====
section
/-!
DEFINITION. One step of the machine: take the caller's next input and do it (Ops: `fetch`, `stepBy`); and the host's
`withFetchWord`.
-/

namespace Sys2Proof.Machine

open Sys2Proof

/-- One step: the next request runs `exec`, a context reset loads `RD_INIT`, and with no input left the block is idle
(R36, R140, R142). -/
def step (s : State) : Host.Outcome State Fault Refusal := stepBy chip exec s

/-- The state in which the caller issues the word next (log 3). A number that is no 22-bit request cannot be issued:
nothing is then left to issue (log 9). -/
def State.withFetchWord (s : State) (nbits w : Nat) : State :=
  match tableWord nbits w with
  | some r => s.issue r
  | none => s.withInputs []

end Sys2Proof.Machine
end

