-- ==== Sys2Proof/Machine/Formats.lean ====
section
/-!
DEFINITION. Value formats and notation that no operation reads: the packed records (R43, R44), the Symbol record's
checked and unchecked constructors (R113, R114, R116), the pseudo-operations (R55) and the textual form (R54, R56).
-/

namespace Sys2Proof.Machine

open Sys2Proof

/-- `dw[9] = disparity`, `dw[8] = is_control`, `dw[7:0] = byte` (R43). -/
def packDataWord (w : DataWord) : BitVec 10 := w.disparity.toBit ++ flagBit w.isControl ++ w.byte

/-- "Every one of the 1024 values is a well-formed DataWord" (R43). -/
def unpackDataWord (v : BitVec 10) : DataWord where
  byte := v.extractLsb' 0 8
  isControl := bitFlag (v.extractLsb' 8 1)
  disparity := Disparity.ofBit (v.extractLsb' 9 1)

/-- `sy[10] = disparity`, `sy[9:0] = code` (R44). -/
def packWireSymbol (y : WireSymbol) : BitVec 11 := y.disparity.toBit ++ y.code

/-- The Symbol an 11-bit value packs (R44). -/
def unpackWireSymbol (v : BitVec 11) : WireSymbol where
  code := v.extractLsb' 0 10
  disparity := Disparity.ofBit (v.extractLsb' 10 1)

/-- The checked constructor of the Symbol record: "nothing beyond the code's range" is checked (R113, R116). -/
def checkedWireSymbol (s : U16) (d : Disparity) : Option WireSymbol :=
  if inRange s then some ⟨codeOf s, d⟩ else none

/-- The unchecked constructor takes the precondition `s <= 0x3FF` as a proof argument (R114). -/
def uncheckedWireSymbol (s : U16) (d : Disparity) (_ : inRange s = true) : WireSymbol := ⟨codeOf s, d⟩

/-! ### Pseudo-operations (R55): each expands to exactly one operation -/

/-- `TXK b` = `TXSTEP b, K`. -/
def txk (b : Byte) : Instr := .txstep true b

/-- `TXD b` = `TXSTEP b, D`. -/
def txd (b : Byte) : Instr := .txstep false b

/-- `TXCOMMA` = `TXSTEP K28_5_BYTE, K`. -/
def txcomma (c : Config) : Instr := .txstep true c.commaByte

/-- `ENCK b, d` = `ENCODE b, K, d`. -/
def enck (b : Byte) (d : Disparity) : Instr := .encode d true b

/-- `ENCD b, d` = `ENCODE b, D, d`. -/
def encd (b : Byte) (d : Disparity) : Instr := .encode d false b

/-! ### Textual form (R54): mnemonic, then operands -/

/-- "A disparity is written `N` (Negative) or `P` (Positive)." -/
def disparityText : Disparity → String
  | .negative => "N"
  | .positive => "P"

/-- "The control flag is written `K` (true) or `D` (false)." -/
def flagText (k : Bool) : String := if k then "K" else "D"

/-- "A byte or symbol is a number"; here the decimal form. -/
def numberText (n : Nat) : String := toString n

/-- The operation without its result, operands separated by commas, in the order of R71 to R121. -/
def instrText : Instr → String
  | .encode d k b => "ENCODE " ++ numberText b.toNat ++ ", " ++ flagText k ++ ", " ++ disparityText d
  | .decode d s => "DECODE " ++ numberText s.toNat ++ ", " ++ disparityText d
  | .iscomma s => "ISCOMMA " ++ numberText s.toNat
  | .after d c => "AFTER " ++ disparityText d ++ ", " ++ numberText c.toNat
  | .flip d => "FLIP " ++ disparityText d
  | .withd d c => "WITHD " ++ disparityText d ++ ", " ++ numberText c.toNat
  | .symchk s => "SYMCHK " ++ numberText s.toNat
  | .symraw s => "SYMRAW " ++ numberText s.toNat
  | .txstep k b => "TXSTEP " ++ numberText b.toNat ++ ", " ++ flagText k
  | .rxstep s => "RXSTEP " ++ numberText s.toNat
  | .rdset d => "RDSET " ++ disparityText d

/-- "A result is a tuple, or `none`": the response read as the result form of the operation (R49, R54). -/
def resultText (i : Instr) (r : Response) : String :=
  let disparity := disparityText (Disparity.ofBit r.rdOut)
  let number := numberText r.dataOut.toNat
  let pair := "(" ++ number ++ ", " ++ disparity ++ ")"
  let triple := "(" ++ number ++ ", " ++ flagText (bitFlag r.kOut) ++ ", " ++ disparity ++ ")"
  let truth := if r.dataOut = 1#10 then "true" else "false"
  if r.valid then
    match i with
    | .encode _ _ _ => pair
    | .decode _ _ => triple
    | .iscomma _ => truth
    | .after _ _ => disparity
    | .flip _ => disparity
    | .withd _ _ => number
    | .symchk _ => number
    | .symraw _ => number
    | .txstep _ _ => pair
    | .rxstep _ => triple
    | .rdset _ => disparity
  else "none"

/-- One line of R54: "the mnemonic of rule R48, then its operands separated by commas, then `->` and the result". -/
def lineText (i : Instr) (r : Response) : String := instrText i ++ " -> " ++ resultText i r

/-- The code point name `Dx.y` or `Kx.y` of a byte with its flag, `x = b[4:0]` and `y = b[7:5]` in decimal (R56). -/
def codePointText (b : Byte) (k : Bool) : String :=
  flagText k ++ numberText (labelX b) ++ "." ++ numberText (labelY b)

end Sys2Proof.Machine
end

