-- ==== Sys2Proof/Machine/Generic.lean ====
section
/-!
DEFINITION. The same machine with its configuration as an argument (R20: the tables "are parameters of every
function"), so that a law of the hardware can be stated for every configuration (R8, R23; 93_implementation_defined.md
part 2). `exec` is this machine at `chip`.
-/

namespace Sys2Proof.Machine

open Sys2Proof

/-- What an operation does under configuration `c`. The operations that read no table take none (R33). -/
def execWith (c : Config) (i : Instr) (s : State) : Outcome :=
  match i with
  | .encode d k b => encodeWith c d k b s
  | .decode d sym => decodeWith c d sym s
  | .iscomma sym => execIsComma sym s
  | .after d v => execAfter d v s
  | .flip d => execFlip d s
  | .withd d v => execWithd d v s
  | .symchk sym => execSymChk sym s
  | .symraw sym => execSymRaw sym s
  | .txstep k b => txStepWith c k b s
  | .rxstep sym => rxStepWith c sym s
  | .rdset d => execRdSet d s

/-- One step under configuration `c`. -/
def stepWith (c : Config) (s : State) : Outcome := stepBy c (execWith c) s

/-- `k` steps under configuration `c`, stopping at the first refusal. -/
def runWith (c : Config) (k : Nat) (s : State) : Outcome := runBy (stepWith c) k s

end Sys2Proof.Machine
end

