-- ==== Sys2Proof/Machine/Streams.lean ====
section
/-!
DEFINITION. Several streams (R24, R36, R139): the product of independent one-stream machines over one configuration;
and a link of one transmit context and one receive context joined symbol by symbol (R123, R124).
-/

namespace Sys2Proof.Machine

open Sys2Proof

/-- `n` stream contexts (R139: they "share nothing but the constant tables"). -/
abbrev Streams (n : Nat) := Vector State n

/-- Stream `j` takes one step; the other streams stay as they are (R36 (b)). A refusal of stream `j` is one of the whole
product (DESIGN CHOICE, safe, log 11). -/
def stepStream {n : Nat} (c : Config) (j : Fin n) (m : Streams n) : Host.Outcome (Streams n) Fault Refusal :=
  match stepWith c m[j] with
  | .next s' => .next (m.set j s')
  | .fault r => .fault r
  | .refused r => .refused r

/-- The streams take steps in the order of a schedule: an interleaving of their callers (R36 (b), R139). A refused request
of one stream ends the run of all of them; the spec leaves open whether the others go on (DESIGN CHOICE, safe, log 11). -/
def runStreams {n : Nat} (c : Config) : List (Fin n) → Streams n → Host.Outcome (Streams n) Fault Refusal
  | [], m => .next m
  | j :: rest, m =>
    match stepStream c j m with
    | .next m' => runStreams c rest m'
    | .fault r => .fault r
    | .refused r => .refused r

/-- The response delivered last. -/
def State.lastResponse (s : State) : Response := s.responses.getLastD Response.absent

/-- One data word over a link: `TXSTEP b, k` on the transmit context, then `RXSTEP` of the symbol it returned on the
receive context (R124). -/
def linkWord (c : Config) (w : Byte × Bool) (tx rx : State) : Host.Outcome (State × State) Fault Refusal :=
  match execWith c (.txstep w.2 w.1) tx with
  | .next tx' =>
    match execWith c (.rxstep (rawOf tx'.lastResponse.dataOut)) rx with
    | .next rx' => .next (tx', rx')
    | .fault r => .fault r
    | .refused r => .refused r
  | .fault r => .fault r
  | .refused r => .refused r

/-- A stream of data words over a link, in order. -/
def linkWords (c : Config) : List (Byte × Bool) → State → State → Host.Outcome (State × State) Fault Refusal
  | [], tx, rx => .next (tx, rx)
  | w :: ws, tx, rx =>
    match linkWord c w tx rx with
    | .next (tx', rx') => linkWords c ws tx' rx'
    | .fault r => .fault r
    | .refused r => .refused r

/-- band2's threaded form of sending (R122): the caller passes each next disparity to the next `ENCODE`. -/
def threadEncode (c : Config) : Disparity → List (Byte × Bool) → List (Sym10 × Disparity) × Disparity
  | d, [] => ([], d)
  | d, (b, k) :: ws =>
    let r := encodeByte c b k d
    let t := threadEncode c r.2 ws
    (r :: t.1, t.2)

/-- band2's threaded form of receiving (R122): `none` if some symbol is rejected, since there is then no next
disparity (R148). -/
def threadDecode (c : Config) : Disparity → List U16 → Option (List (Byte × Bool × Disparity) × Disparity)
  | d, [] => some ([], d)
  | d, s :: ss =>
    match decodeSymbol c s d with
    | none => none
    | some r =>
      match threadDecode c r.2.2 ss with
      | none => none
      | some t => some (r :: t.1, t.2)

end Sys2Proof.Machine
end

