-- ==== Sys2Proof/Safety.lean ====
section
/-!
DEFINITION. What the claims about the machine speak of: which operations write `ctx.rd` (R15), which response fields an
operation defines (R49), lawful responses (R47, R51), requests that have a meaning (R50), the loose decoder that the
block does not use (R101), and the excess of ones of a stream (R145).
-/

namespace Sys2Proof

open Sys2Proof.Machine

/-- `ctx.rd` "is written only by `TXSTEP`, `RXSTEP` and `RDSET`" (R15). -/
def Instr.isStream : Instr → Bool
  | .encode _ _ _ => false
  | .decode _ _ => false
  | .iscomma _ => false
  | .after _ _ => false
  | .flip _ => false
  | .withd _ _ => false
  | .symchk _ => false
  | .symraw _ => false
  | .txstep _ _ => true
  | .rxstep _ => true
  | .rdset _ => true

/-- The operations whose row of R49 defines `rd_out`. -/
def Instr.definesRdOut : Instr → Bool
  | .encode _ _ _ => true
  | .decode _ _ => true
  | .iscomma _ => false
  | .after _ _ => true
  | .flip _ => true
  | .withd _ _ => false
  | .symchk _ => false
  | .symraw _ => false
  | .txstep _ _ => true
  | .rxstep _ => true
  | .rdset _ => true

/-- The operations whose row of R49 defines `k_out`. -/
def Instr.definesKOut : Instr → Bool
  | .encode _ _ _ => false
  | .decode _ _ => true
  | .iscomma _ => false
  | .after _ _ => false
  | .flip _ => false
  | .withd _ _ => false
  | .symchk _ => false
  | .symraw _ => false
  | .txstep _ _ => false
  | .rxstep _ => true
  | .rdset _ => false

/-- How many low bits of `data_out` the row of R49 defines; the bits above them are 0. -/
def Instr.dataOutWidth : Instr → Nat
  | .encode _ _ _ => 10
  | .decode _ _ => 8
  | .iscomma _ => 1
  | .after _ _ => 0
  | .flip _ => 0
  | .withd _ _ => 10
  | .symchk _ => 10
  | .symraw _ => 10
  | .txstep _ _ => 10
  | .rxstep _ => 8
  | .rdset _ => 0

/-- The must-be-zero bits of the operation selected by `op` (the `mbz` entries of spec/opcode_table.json, R49). -/
def mbzMask (op : Nat) : ReqWord :=
  match op with
  | 0 => 0x00FF00#22
  | 1 => 0x010000#22
  | 2 => 0x030000#22
  | 3 => 0x01FC00#22
  | 4 => 0x01FFFF#22
  | 5 => 0x01FC00#22
  | 6 => 0x030000#22
  | 7 => 0x030000#22
  | 8 => 0x02FF00#22
  | 9 => 0x030000#22
  | 10 => 0x01FFFF#22
  | _ => 0#22

/-- A request has no meaning: (a) `op` is 11 to 15, (b) a must-be-zero field is not zero, (c) `SYMRAW` with `data`
above `0x3FF` (R50). -/
def MeaninglessRequest (w : ReqWord) : Prop :=
  11 ≤ (ReqWord.op w).toNat ∨
  w &&& mbzMask (ReqWord.op w).toNat ≠ 0#22 ∨
  ((ReqWord.op w).toNat = 7 ∧ 0x3FF < (ReqWord.data w).toNat)

namespace Machine

/-- "When `valid = 0` every other field is 0" (R47, R51). -/
def Response.Lawful (r : Response) : Prop := r.valid = false → r = Response.absent

/-- Every response delivered to the caller is lawful. -/
def State.ResponsesLawful (s : State) : Prop := ∀ r ∈ s.responses, r.Lawful

/-- Every request the caller will issue has a meaning. -/
def State.WellIssued (s : State) : Prop := ∀ w, Input.request w ∈ s.inputs → ¬ MeaninglessRequest w

/-- The decoder "omitting this check" of the bit count (R101; 90_conflicts.md C4). It is no part of the block and is
here to be compared with it. -/
def decodeLoose (c : Config) (s : U16) (d : Disparity) : Option (Byte × Bool × Disparity) :=
  if isComma s then some (c.commaByte, true, flipDisparity d)
  else if inRange s then (lookupSymbol c (codeOf s) d).toOption
  else none

/-- Ones minus zeros of a code (R145). -/
def excess (v : Sym10) : Int := (popcount v : Int) - (10 - (popcount v : Int))

/-- Ones minus zeros over a stream of codes (R145). -/
def runningSum (vs : List Sym10) : Int := (vs.map excess).sum

/-- Every code, in ascending order. -/
def allCodes : List Sym10 := (List.range 1024).map (BitVec.ofNat 10)

end Machine

end Sys2Proof
end

