-- ==== Sys2Proof/Certificates/Slice0/Obligations.lean ====
section
/-!
DEFINITION. The statements for the provers, file by file of the spec. `exec` and `step` are the machine at `chip`;
`execWith c` and `stepWith c` are the same machine at any configuration, and W1 to W8 of R8 are hypotheses where the
spec needs them. Where a statement speaks of concrete table values it says so: they are the defaults of `chip` (log 1).
-/

open Sys2Proof Sys2Proof.Machine

/-! ### 30_encoding.md -/

/-- No operation and no operand is lost by the request word: it decodes to the operation it was encoded from. -/
def Obligations.RequestRoundTrip : Prop :=
  ∀ i : Instr, decodeRequest (encodeRequest i) = .ok i

/-- Each request word has one meaning: an operation read from a word encodes to that word, every bit of it. -/
def Obligations.RequestWordHasOneMeaning : Prop :=
  ∀ (w : ReqWord) (i : Instr), decodeRequest w = .ok i → encodeRequest i = w

/-- The decoder accepts exactly the words of the rows of spec/opcode_table.json, each as its row's operation. -/
def Obligations.DecoderFollowsOpcodeTable : Prop :=
  ∀ w : ReqWord,
    (∀ i, decodeRequest w = .ok i → ∃ r ∈ opcodeTable, r.mnemonic = i.mnemonic ∧ r.holds w = true) ∧
    (∀ r ∈ opcodeTable, r.holds w = true → ∃ i, decodeRequest w = .ok i ∧ i.mnemonic = r.mnemonic)

/-- R46: the fields of the request word and what stands in `data`. -/
def Obligations.RequestWordLayout : Prop :=
  (∀ (op : BitVec 4) (rd k : BitVec 1) (data : BitVec 16),
    (packRequest op rd k data).toNat = op.toNat * 2 ^ 18 + rd.toNat * 2 ^ 17 + k.toNat * 2 ^ 16 + data.toNat) ∧
  (∀ i : Instr, encodeRequest i = packRequest i.opcode i.rdField i.kField i.dataField) ∧
  (∀ d k b, (Instr.encode d k b).rdField = d.toBit ∧ ((Instr.encode d k b).kField = 1#1 ↔ k = true) ∧
    (Instr.encode d k b).dataField.toNat = b.toNat) ∧
  (∀ k b, ((Instr.txstep k b).kField = 1#1 ↔ k = true) ∧ (Instr.txstep k b).dataField.toNat = b.toNat) ∧
  (∀ d v, (Instr.after d v).rdField = d.toBit ∧ (Instr.after d v).dataField.toNat = v.toNat ∧
    (Instr.withd d v).rdField = d.toBit ∧ (Instr.withd d v).dataField.toNat = v.toNat) ∧
  (∀ d s, (Instr.decode d s).rdField = d.toBit ∧ (Instr.decode d s).dataField = s) ∧
  (∀ s, (Instr.iscomma s).dataField = s ∧ (Instr.symchk s).dataField = s ∧ (Instr.symraw s).dataField = s ∧
    (Instr.rxstep s).dataField = s) ∧
  (∀ d, (Instr.flip d).rdField = d.toBit ∧ (Instr.rdset d).rdField = d.toBit)

/-- R48: the operation select codes; 11 to 15 are reserved; the first eight leave `ctx.rd` alone (they are pure), and
each of the last three writes it in some state. -/
def Obligations.OperationSelectCodes : Prop :=
  (∀ d k b, (Instr.encode d k b).opcode = 0#4) ∧ (∀ d s, (Instr.decode d s).opcode = 1#4) ∧
  (∀ s, (Instr.iscomma s).opcode = 2#4) ∧ (∀ d v, (Instr.after d v).opcode = 3#4) ∧
  (∀ d, (Instr.flip d).opcode = 4#4) ∧ (∀ d v, (Instr.withd d v).opcode = 5#4) ∧
  (∀ s, (Instr.symchk s).opcode = 6#4) ∧ (∀ s, (Instr.symraw s).opcode = 7#4) ∧
  (∀ k b, (Instr.txstep k b).opcode = 8#4) ∧ (∀ s, (Instr.rxstep s).opcode = 9#4) ∧
  (∀ d, (Instr.rdset d).opcode = 10#4) ∧
  (∀ w : ReqWord, 11 ≤ (ReqWord.op w).toNat → decodeRequest w = .error (.reservedOp (ReqWord.op w))) ∧
  (∀ (i : Instr) (s t : State), i.opcode.toNat < 8 → exec i s = .next t → t.rd = s.rd) ∧
  (∃ k b s t, exec (.txstep k b) s = .next t ∧ t.rd ≠ s.rd) ∧
  (∃ sym s t, exec (.rxstep sym) s = .next t ∧ t.rd ≠ s.rd) ∧
  (∃ d s t, exec (.rdset d) s = .next t ∧ t.rd ≠ s.rd)

/-- Request words written out from 95_test_vectors.md, one or two of each family. -/
def Obligations.SampleRequestWordsDecode : Prop :=
  decodeRequest 0x0300BC#22 = .ok (.encode .positive true 0xBC#8) ∧
  decodeRequest 0x06018B#22 = .ok (.decode .positive 0x018B#16) ∧
  decodeRequest 0x0804FA#22 = .ok (.iscomma 0x04FA#16) ∧
  decodeRequest 0x0C01D4#22 = .ok (.after .negative 0x1D4#10) ∧
  decodeRequest 0x120000#22 = .ok (.flip .positive) ∧
  decodeRequest 0x140305#22 = .ok (.withd .negative 0x305#10) ∧
  decodeRequest 0x18FFFF#22 = .ok (.symchk 0xFFFF#16) ∧
  decodeRequest 0x1C0305#22 = .ok (.symraw 0x0305#16) ∧
  decodeRequest 0x2100FB#22 = .ok (.txstep true 0xFB#8) ∧
  decodeRequest 0x240368#22 = .ok (.rxstep 0x0368#16) ∧
  decodeRequest 0x2A0000#22 = .ok (.rdset .positive)

/-- R47: the fields of the response word; every field that R49 does not define for an operation is 0; and with
`valid = 0` every other field is 0. -/
def Obligations.ResponseWordLayout : Prop :=
  (∀ r : Response, r.word.toNat =
    (if r.valid then 1 else 0) * 2 ^ 12 + r.rdOut.toNat * 2 ^ 11 + r.kOut.toNat * 2 ^ 10 + r.dataOut.toNat) ∧
  (∀ (i : Instr) (s t : State), exec i s = .next t →
    ∃ r, t.responses = s.responses ++ [r] ∧
      (i.definesRdOut = false → r.rdOut = 0#1) ∧ (i.definesKOut = false → r.kOut = 0#1) ∧
      r.dataOut.toNat < 2 ^ i.dataOutWidth ∧
      (r.valid = false → r.rdOut = 0#1 ∧ r.kOut = 0#1 ∧ r.dataOut = 0#10))

/-- R50: a step refuses exactly the requests that have no meaning; such a request is never answered, `none` included. -/
def Obligations.MeaninglessRequestsRefused : Prop :=
  ∀ (s : State) (w : ReqWord) (rest : List Input), s.inputs = .request w :: rest →
    ((∃ r, step s = .refused r) ↔ MeaninglessRequest w) ∧
    (MeaninglessRequest w → ¬ ∃ t, step s = .next t)

/-- The packed records of R43 and R44 lose nothing, and every packed value is a record. -/
def Obligations.PackedRecordsRoundTrip : Prop :=
  (∀ w : DataWord, unpackDataWord (packDataWord w) = w) ∧
  (∀ v : BitVec 10, packDataWord (unpackDataWord v) = v) ∧
  (∀ y : WireSymbol, unpackWireSymbol (packWireSymbol y) = y) ∧
  (∀ v : BitVec 11, packWireSymbol (unpackWireSymbol v) = v)

/-! ### The machine: one step -/

/-- The caller's inputs as a list in State, whose first entry a step takes and whose empty form is the idle block, are
the model's choice (log 3). In that form: a request that decodes runs `exec` of its operation with the request taken
(R36, one at a time in the order issued); with nothing issued the step keeps everything, `ctx.rd` included (R140). -/
def Obligations.StepRunsDecodedOperation : Prop :=
  (∀ (s : State) (w : ReqWord) (rest : List Input) (i : Instr),
    s.inputs = .request w :: rest → decodeRequest w = .ok i → step s = exec i { s with inputs := rest }) ∧
  (∀ s : State, s.inputs = [] → step s = .next s)

/-- R142: reset of a context sets `ctx.rd` to `RD_INIT`, whatever `RD_INIT` is, and does nothing else; it has the
effect of `RDSET RD_INIT` on `ctx.rd`. -/
def Obligations.ContextResetLoadsRdInit : Prop :=
  (∀ (c : Config) (s : State) (rest : List Input), s.inputs = .resetContext :: rest →
    stepWith c s = .next { s with rd := c.rdInit, inputs := rest }) ∧
  (∀ (s : State) (rest : List Input), s.inputs = .resetContext :: rest →
    step s = .next { s with rd := chip.rdInit, inputs := rest }) ∧
  (∀ (c : Config) (s : State),
    ∃ t, execWith c (.rdset c.rdInit) s = .next t ∧ t.rd = (s.resetContext c).rd)

/-- After reset `ctx.rd` is `RD_INIT` of the configuration; the host interface is empty (log 3, log 4), and
`State.reset` is the reset of `chip`, whose `RD_INIT` is the model's choice (log 2). -/
def Obligations.ResetHoldsRdInit : Prop :=
  (∀ c : Config, (State.resetWith c).rd = c.rdInit ∧ (State.resetWith c).inputs = [] ∧
    (State.resetWith c).responses = []) ∧
  State.reset = State.resetWith chip

/-- Every operation completes on every well-formed request, in every state: there is no fault, no wait and no mode. -/
def Obligations.WellFormedOperationsComplete : Prop :=
  ∀ (i : Instr) (s : State), i.wellFormed = true → ∃ t, exec i s = .next t

/-- A caller that issues only requests with a meaning is never stopped, however long it runs. -/
def Obligations.WellIssuedRunsNeverStop : Prop :=
  ∀ (s : State), s.WellIssued → ∀ k : Nat, ∃ t, runBy step k s = .next t ∧ t.WellIssued

/-- Every step keeps every delivered response lawful: a `none` carries no payload (R47, R51). -/
def Obligations.StepKeepsResponsesLawful : Prop :=
  ∀ (s t : State), s.ResponsesLawful → step s = .next t → t.ResponsesLawful

/-- The responses are lawful after reset. -/
def Obligations.ResetResponsesLawful : Prop := State.reset.ResponsesLawful

/-! ### 10_state.md -/

/-- The eight core operations change nothing but deliver one response, and that response depends on the operands only. -/
def Obligations.CoreOperationsArePure : Prop :=
  ∀ (c : Config) (i : Instr), i.isStream = false → i.wellFormed = true →
    ∃ r, ∀ s : State, execWith c i s = .next { s with responses := s.responses ++ [r] }

/-- What an operation answers and what it leaves in `ctx.rd` depends on its operands and on `ctx.rd`, and on nothing
else: no history of inputs or responses. -/
def Obligations.ResultsDependOnRdOnly : Prop :=
  ∀ (c : Config) (i : Instr) (d : Disparity), i.wellFormed = true →
    ∃ (d' : Disparity) (r : Response), ∀ s : State, s.rd = d →
      execWith c i s = .next { s with rd := d', responses := s.responses ++ [r] }

/-! ### 20_memory.md and 40_symbol_tables.md -/

/-- Operations on different stream contexts commute (R36 (b)). -/
def Obligations.DifferentStreamsCommute : Prop :=
  ∀ (n : Nat) (c : Config) (m a b : Streams n) (j l : Fin n), j ≠ l →
    stepStream c j m = .next a → stepStream c l a = .next b →
    ∃ a', stepStream c l m = .next a' ∧ stepStream c j a' = .next b

/-- Any interleaving of n streams gives each stream the result of running alone (R36 (b)), and completes exactly when
each of them does alone; that it does not complete when one of them is refused is the model's choice (log 11). -/
def Obligations.InterleavingGivesEachStreamItsOwnRun : Prop :=
  ∀ (n : Nat) (c : Config) (schedule : List (Fin n)) (m m' : Streams n),
    runStreams c schedule m = .next m' ↔ ∀ j : Fin n, runWith c (schedule.count j) m[j] = .next m'[j]

/-- R59: `DEC_POS` is the inverse of `ENC_POS`: exactly 256 entries are `some`, 768 are `none`, and the control symbols
are `none` in it. -/
def Obligations.DecPosIsInverseOfEncPos : Prop :=
  ∀ c : Config, c.W2 →
    (∀ v b, decPos c v = some b ↔ c.encPos b = v) ∧
    (∀ v, decPos c v = none ↔ ∀ b, c.encPos b ≠ v) ∧
    allCodes.countP (fun v => (decPos c v).isSome) = 256 ∧
    allCodes.countP (fun v => (decPos c v).isNone) = 768 ∧
    (c.W4 → ∀ p ∈ c.ctrlTable, decPos c p.2 = none)

/-- R61, R62: the control scans find exactly the entries of the table, by byte and by symbol (W3). -/
def Obligations.ControlScansFindTheEntries : Prop :=
  ∀ c : Config, c.W3 →
    (∀ b v, ctrlByByte c b = some v ↔ (b, v) ∈ c.ctrlTable) ∧
    (∀ b v, ctrlBySym c v = some b ↔ (b, v) ∈ c.ctrlTable)

/-! ### 41_disparity.md -/

/-- R71: `AFTER` answers the next disparity by the bit counts and leaves the state as it is. -/
def Obligations.AfterAnswersNextDisparity : Prop :=
  (∀ (d : Disparity) (v : Sym10) (s : State),
    exec (.after d v) s = .next { s with responses := s.responses ++
      [{ valid := true, kOut := 0#1, dataOut := 0#10,
         rdOut :=
          if popcount v > 5 then 1#1
          else if popcount v < 5 then 0#1
          else if popcount (v.extractLsb' 0 6) > 3 ∨ popcount (v.extractLsb' 6 4) > 2 then 1#1
          else if popcount (v.extractLsb' 0 6) < 3 ∨ popcount (v.extractLsb' 6 4) < 2 then 0#1
          else match d with | .negative => 0#1 | .positive => 1#1 }] }) ∧
  (∀ d v, (ReqWord.op (encodeRequest (.after d v))) = 3#4) ∧
  (∀ d, afterSymbol d 0x000#10 = .negative ∧ afterSymbol d 0x3FF#10 = .positive) ∧
  (∀ v, afterSymbol .negative v ≠ afterSymbol .positive v →
    popcount v = 5 ∧ popcount (sixPart v) = 3 ∧ popcount (fourPart v) = 2) ∧
  afterSymbol .negative 0x0FA#10 = .positive ∧ afterSymbol .positive 0x305#10 = .negative ∧
  afterSymbol .negative 0x2AA#10 = .negative ∧ afterSymbol .positive 0x2AA#10 = .positive

/-- R72, R78: the classes of 10-bit values under `AFTER`, their sizes, and the transition table of the two-state
machine: heavy, light, balanced tie, unbalanced tie, and `FLIP`. -/
def Obligations.ClassesOfCodesUnderAfter : Prop :=
  (∀ d v, 5 < popcount v → afterSymbol d v = .positive) ∧
  (∀ d v, popcount v < 5 → afterSymbol d v = .negative) ∧
  (∀ d v, popcount v = 5 → popcount (sixPart v) = 3 → popcount (fourPart v) = 2 ∧ afterSymbol d v = d) ∧
  (∀ d v, popcount v = 5 → popcount (sixPart v) ≠ 3 → afterSymbol d v = .positive) ∧
  allCodes.countP (fun v => decide (5 < popcount v)) = 386 ∧
  allCodes.countP (fun v => decide (popcount v < 5)) = 386 ∧
  allCodes.countP (fun v => decide (popcount v = 5)) = 252 ∧
  allCodes.countP (fun v => decide (popcount v = 5 ∧ popcount (sixPart v) = 3)) = 120 ∧
  allCodes.countP (fun v => decide (popcount v = 5 ∧ popcount (sixPart v) ≠ 3)) = 132 ∧
  flipDisparity .negative = .positive ∧ flipDisparity .positive = .negative

/-- R73, the part on the rule itself: at a tie the Negative branch is dead, so `AFTER` returns Negative only for a light
symbol or for a balanced tie entered at Negative; and the rule is not symmetric under complement. -/
def Obligations.NegativeTieBranchIsDead : Prop :=
  (∀ v : Sym10, popcount v = 5 → ¬ (popcount (sixPart v) > 3 ∨ popcount (fourPart v) > 2) →
    ¬ (popcount (sixPart v) < 3 ∨ popcount (fourPart v) < 2)) ∧
  (∀ d v, afterSymbol d v = .negative →
    popcount v < 5 ∨ (d = .negative ∧ popcount v = 5 ∧ popcount (sixPart v) = 3)) ∧
  (∀ d v, popcount v = 5 → popcount (sixPart v) ≠ 3 →
    popcount (complement10 v) = 5 ∧ popcount (sixPart (complement10 v)) ≠ 3 ∧
    afterSymbol d v = .positive ∧ afterSymbol d (complement10 v) = .positive)

/-- R76: the laws of `WITHD`. -/
def Obligations.LawsOfWithd : Prop :=
  (∀ d v, withDisparity d (withDisparity d v) = v) ∧
  (∀ v, popcount (withDisparity .negative v) = 10 - popcount v ∧
    (Config.BalancedCount (withDisparity .negative v) ↔ Config.BalancedCount v)) ∧
  (∀ v, withDisparity .negative v ≠ v) ∧
  (withDisparity .negative commaPos = commaNeg ∧ withDisparity .negative commaNeg = commaPos) ∧
  (∀ v, (5 < popcount v ↔ popcount (withDisparity .negative v) < 5) ∧
    (popcount v < 5 ↔ 5 < popcount (withDisparity .negative v)) ∧
    ((popcount v = 5 ∧ popcount (sixPart v) = 3) ↔
      (popcount (withDisparity .negative v) = 5 ∧ popcount (sixPart (withDisparity .negative v)) = 3)) ∧
    ((popcount v = 5 ∧ popcount (sixPart v) ≠ 3) ↔
      (popcount (withDisparity .negative v) = 5 ∧ popcount (sixPart (withDisparity .negative v)) ≠ 3)))

/-- `FLIP` answers the other disparity, leaves the state as it is, and is an involution. -/
def Obligations.FlipAnswersOtherDisparity : Prop :=
  (∀ (d : Disparity) (s : State), exec (.flip d) s = .next { s with responses := s.responses ++
    [{ valid := true, kOut := 0#1, dataOut := 0#10,
       rdOut := match d with | .negative => 1#1 | .positive => 0#1 }] }) ∧
  (∀ d, flipDisparity (flipDisparity d) = d) ∧ (∀ d, flipDisparity d ≠ d)

/-- R75: `WITHD` answers the code at Positive and its 10-bit complement, `0x3FF - v`, at Negative. -/
def Obligations.WithdAnswersAdaptedCode : Prop :=
  (∀ (d : Disparity) (v : Sym10) (s : State), exec (.withd d v) s = .next { s with responses := s.responses ++
    [{ valid := true, rdOut := 0#1, kOut := 0#1,
       dataOut := match d with | .positive => v | .negative => 0x3FF#10 - v }] }) ∧
  (∀ d v, (ReqWord.op (encodeRequest (.withd d v))) = 5#4) ∧
  (∀ v, withDisparity .negative v = ~~~v ∧ withDisparity .negative v = 0x3FF#10 - v) ∧
  withDisparity .negative 0x000#10 = 0x3FF#10 ∧ withDisparity .negative 0x3FF#10 = 0x000#10 ∧
  withDisparity .negative 0x305#10 = 0x0FA#10 ∧ withDisparity .positive 0x305#10 = 0x305#10

/-- R77, for `TXSTEP` and `RXSTEP`: `TXSTEP` leaves `AFTER` of the transmitted symbol in `ctx.rd`; `RXSTEP` leaves
`FLIP` on a received comma, `AFTER` of any other accepted symbol, and holds `ctx.rd` on a rejected one. -/
def Obligations.StreamTransitionsAreAfterOrFlip : Prop :=
  (∀ (c : Config) (k : Bool) (b : Byte) (s : State), ∃ (t : State) (r : Response),
    execWith c (.txstep k b) s = .next t ∧ t.responses = s.responses ++ [r] ∧
    t.rd = afterSymbol s.rd r.dataOut) ∧
  (∀ (c : Config) (sym : U16) (s : State), ∃ (t : State) (r : Response),
    execWith c (.rxstep sym) s = .next t ∧ t.responses = s.responses ++ [r] ∧
    (isComma sym = true → r.valid = true ∧ t.rd = flipDisparity s.rd) ∧
    (isComma sym = false → r.valid = true → t.rd = afterSymbol s.rd (codeOf sym)) ∧
    (r.valid = false → t.rd = s.rd))

/-- R81, with the default tables of `chip`: the encoder sends light or tie symbols at Positive and heavy or tie symbols
at Negative. -/
def Obligations.DefaultEncoderSymbolClasses : Prop :=
  ∀ (b : Byte) (k : Bool),
    (popcount (encodeByte chip b k .positive).1 = 4 ∨ popcount (encodeByte chip b k .positive).1 = 5) ∧
    (popcount (encodeByte chip b k .negative).1 = 5 ∨ popcount (encodeByte chip b k .negative).1 = 6) ∧
    ((encodeByte chip b k .positive).2 = .negative ↔ popcount (encodeByte chip b k .positive).1 = 4) ∧
    ((encodeByte chip b k .negative).2 = .negative ↔
      popcount (encodeByte chip b k .negative).1 = 5 ∧ popcount (sixPart (encodeByte chip b k .negative).1) = 3)

/-- R82: the worked values of `AFTER`, covering every branch: the code, its ones, the ones of its low six and of its high
four bits, the result at Negative, the result at Positive. -/
def Obligations.AfterWorkedValues : Prop :=
  ∀ p ∈ ([
    (0x000#10, 0, 0, 0, .negative, .negative),
    (0x3FF#10, 10, 6, 4, .positive, .positive),
    (0x0FA#10, 6, 4, 2, .positive, .positive),
    (0x305#10, 4, 2, 2, .negative, .negative),
    (0x2AA#10, 5, 3, 2, .negative, .positive),
    (0x18B#10, 5, 3, 2, .negative, .positive),
    (0x274#10, 5, 3, 2, .negative, .positive),
    (0x1D4#10, 5, 2, 3, .positive, .positive),
    (0x22B#10, 5, 4, 1, .positive, .positive),
    (0x01F#10, 5, 5, 0, .positive, .positive),
    (0x3C1#10, 5, 1, 4, .positive, .positive),
    (0x03F#10, 6, 6, 0, .positive, .positive),
    (0x3C0#10, 4, 0, 4, .negative, .negative) ] : List (Sym10 × Nat × Nat × Nat × Disparity × Disparity)),
    popcount p.1 = p.2.1 ∧ popcount (sixPart p.1) = p.2.2.1 ∧ popcount (fourPart p.1) = p.2.2.2.1 ∧
    afterSymbol .negative p.1 = p.2.2.2.2.1 ∧ afterSymbol .positive p.1 = p.2.2.2.2.2

/-! ### 42_comma.md -/

/-- R83: `ISCOMMA` answers whether all sixteen bits are one of the two comma codes. -/
def Obligations.IsCommaAnswersComparison : Prop :=
  (∀ (sym : U16) (s : State), exec (.iscomma sym) s = .next { s with responses := s.responses ++
    [{ valid := true, rdOut := 0#1, kOut := 0#1,
       dataOut := if sym = 0x00FA#16 ∨ sym = 0x0305#16 then 1#10 else 0#10 }] }) ∧
  (∀ sym, (ReqWord.op (encodeRequest (.iscomma sym))) = 2#4) ∧
  (∀ sym : U16, 0x3FF < sym.toNat → isComma sym = false) ∧
  isComma 0x04FA#16 = false ∧ isComma 0x8305#16 = false ∧
  isComma 0x00FA#16 = true ∧ isComma 0x0305#16 = true ∧ isComma 0x00F9#16 = false

/-- R84: exactly two of the 65536 inputs are commas, and the answer is the same whatever the tables hold. -/
def Obligations.ExactlyTwoCommasWhateverTheTables : Prop :=
  (∃ a b : U16, a ≠ b ∧ ∀ s : U16, isComma s = true ↔ s = a ∨ s = b) ∧
  (∀ (c c' : Config) (sym : U16) (s : State), execWith c (.iscomma sym) s = execWith c' (.iscomma sym) s)

/-- R87: the comma control byte with the control flag is sent as the comma code of the current polarity, and no other
word is sent as a comma code. -/
def Obligations.OnlyCommaByteIsSentAsComma : Prop :=
  ∀ c : Config, c.WellFormed →
    (c.commaByte, commaPos) ∈ c.ctrlTable ∧ commaNeg = withDisparity .negative commaPos ∧
    (encodeByte c c.commaByte true .negative).1 = commaNeg ∧
    (encodeByte c c.commaByte true .positive).1 = commaPos ∧
    (∀ b k d, isComma (rawOf (encodeByte c b k d).1) = true ↔ b = c.commaByte ∧ k = true)

/-! ### 43_encoder.md -/

/-- R88: `ENCODE` sends the resolved symbol, complemented at Negative, and answers `AFTER` of the sent symbol; with the
examples of the default tables. -/
def Obligations.EncodeAnswersSymbolAndNextDisparity : Prop :=
  (∀ (d : Disparity) (k : Bool) (b : Byte) (s : State),
    ∃ v : Sym10,
      v = withDisparity d
        (if k then (match ctrlByByte chip b with | some ksym => ksym | none => chip.encPos b) else chip.encPos b) ∧
      exec (.encode d k b) s = .next { s with responses := s.responses ++
        [{ valid := true, rdOut := (afterSymbol d v).toBit, kOut := 0#1, dataOut := v }] }) ∧
  (∀ d k b, (ReqWord.op (encodeRequest (.encode d k b))) = 0#4) ∧
  encodeByte chip 0x00#8 false .positive = (0x18B#10, .positive) ∧
  encodeByte chip 0x00#8 false .negative = (0x274#10, .negative) ∧
  encodeByte chip 0xBC#8 true .negative = (0x0FA#10, .positive) ∧
  encodeByte chip 0xBC#8 true .positive = (0x305#10, .negative)

/-- The number of ones the encoder sends, for well-formed tables (R91): 4, 5 or 6 at Positive, and 10 minus the table
value's at Negative. -/
def Obligations.EncodedOnesStayInBand : Prop :=
  ∀ c : Config, c.W5 → c.W8 → ∀ (b : Byte) (k : Bool),
    Config.BalancedCount (resolvePositive c b k) ∧
    (encodeByte c b k .positive).1 = resolvePositive c b k ∧
    popcount (encodeByte c b k .negative).1 = 10 - popcount (resolvePositive c b k)

/-- R92: the control flag on a byte that is not a control byte is without effect, and does not survive the round trip;
with the example of the default tables. -/
def Obligations.ControlFlagFallsBackToData : Prop :=
  (∀ (c : Config) (b : Byte) (d : Disparity), b ∉ c.controlBytes →
    encodeByte c b true d = encodeByte c b false d) ∧
  (∀ (c : Config) (b : Byte) (d : Disparity), c.WellFormed → b ∉ c.controlBytes →
    ∃ d', decodeSymbol c (rawOf (encodeByte c b true d).1) d = some (b, false, d')) ∧
  encodeByte chip 0x41#8 true .positive = (0x225#10, .negative) ∧
  encodeByte chip 0x41#8 false .positive = (0x225#10, .negative) ∧
  decodeSymbol chip 0x0225#16 .positive = some (0x41#8, false, .negative)

/-- The encoder's step 3 applies `AFTER` to the comma too, and agrees there with `FLIP` (R94). -/
def Obligations.EncodedCommaFlips : Prop :=
  ∀ c : Config, c.WellFormed → ∀ d, (encodeByte c c.commaByte true d).2 = flipDisparity d

/-- R95: a control byte sent with the flag false is sent as data, by a symbol that differs from its control symbol; with
the example of the default tables. -/
def Obligations.ControlByteAsDataDiffers : Prop :=
  (∀ c : Config, c.WellFormed → ∀ b ∈ c.controlBytes, ∀ d,
    (encodeByte c b false d).1 = withDisparity d (c.encPos b) ∧
    (encodeByte c b false d).1 ≠ (encodeByte c b true d).1) ∧
  encodeByte chip 0xBC#8 false .positive = (0x0EA#10, .positive) ∧
  encodeByte chip 0xBC#8 true .positive = (0x305#10, .negative)

/-! ### 44_decoder.md -/

/-- R96: `DECODE` answers by the six steps and leaves the state as it is; with the examples of the default tables. -/
def Obligations.DecodeAnswersBySixSteps : Prop :=
  (∀ (d : Disparity) (sym : U16) (s : State),
    exec (.decode d sym) s = .next { s with responses := s.responses ++ [
      if sym = 0x00FA#16 ∨ sym = 0x0305#16 then
        { valid := true, rdOut := (flipDisparity d).toBit, kOut := 1#1, dataOut := chip.commaByte.setWidth 10 }
      else if sym.toNat > 0x3FF then { valid := false, rdOut := 0#1, kOut := 0#1, dataOut := 0#10 }
      else if popcount sym < 4 ∨ popcount sym > 6 then { valid := false, rdOut := 0#1, kOut := 0#1, dataOut := 0#10 }
      else match ctrlBySym chip (withDisparity d (sym.extractLsb' 0 10)) with
        | some kb =>
          { valid := true, rdOut := (afterSymbol d (sym.extractLsb' 0 10)).toBit, kOut := 1#1, dataOut := kb.setWidth 10 }
        | none =>
          match decPos chip (withDisparity d (sym.extractLsb' 0 10)) with
          | none => { valid := false, rdOut := 0#1, kOut := 0#1, dataOut := 0#10 }
          | some db =>
            { valid := true, rdOut := (afterSymbol d (sym.extractLsb' 0 10)).toBit, kOut := 0#1,
              dataOut := db.setWidth 10 } ] }) ∧
  (∀ d sym, (ReqWord.op (encodeRequest (.decode d sym))) = 1#4) ∧
  decodeSymbol chip 0x018B#16 .positive = some (0x00#8, false, .positive) ∧
  decodeSymbol chip 0x00FA#16 .negative = some (0xBC#8, true, .positive) ∧
  decodeSymbol chip 0x0400#16 .positive = none

/-- R101: for every configuration that meets W5 and W8 the strict path and the loose path accept exactly the same symbols
with the same results. -/
def Obligations.StrictAndLoosePathsAgree : Prop :=
  ∀ c : Config, c.W5 → c.W8 → ∀ (s : U16) (d : Disparity), decodeSymbol c s d = decodeLoose c s d

/-- R105: on a non-comma exit the next disparity is the one the encoder computes from the same symbol and disparity. -/
def Obligations.DecodedNextDisparityIsAfter : Prop :=
  ∀ (c : Config) (s : U16) (d : Disparity) (b : Byte) (k : Bool) (d' : Disparity),
    isComma s = false → decodeSymbol c s d = some (b, k, d') → d' = afterSymbol d (codeOf s)

/-- R106: either comma code is accepted at either disparity and always flips; a mismatched one leaves the decoder
opposite to what `AFTER` gives. -/
def Obligations.CommaPathChecksNoPolarity : Prop :=
  ∀ (c : Config),
    (∀ d, decodeSymbol c 0x00FA#16 d = some (c.commaByte, true, flipDisparity d) ∧
      decodeSymbol c 0x0305#16 d = some (c.commaByte, true, flipDisparity d)) ∧
    (flipDisparity .negative = afterSymbol .negative 0x0FA#10 ∧ flipDisparity .positive = afterSymbol .positive 0x305#10) ∧
    (decodeSymbol c 0x00FA#16 .positive = some (c.commaByte, true, .negative) ∧
      afterSymbol .positive 0x0FA#10 = .positive) ∧
    (decodeSymbol c 0x0305#16 .negative = some (c.commaByte, true, .positive) ∧
      afterSymbol .negative 0x305#10 = .negative)

/-- R109: every data byte survives the round trip at either disparity, with the encoder's next disparity, for every
configuration that meets W1 to W7. -/
def Obligations.DataBytesRoundTrip : Prop :=
  ∀ c : Config, c.W1 → c.W2 → c.W3 → c.W4 → c.W5 → c.W6 → c.W7 → ∀ (b : Byte) (d : Disparity),
    decodeSymbol c (rawOf (encodeByte c b false d).1) d = some (b, false, (encodeByte c b false d).2)

/-- R110: every control byte survives the round trip at either disparity, with the encoder's next disparity, for every
configuration that meets W3, W4, W6 and W8, and for the defaults. -/
def Obligations.ControlBytesRoundTrip : Prop :=
  (∀ c : Config, c.W3 → c.W4 → c.W6 → c.W8 → ∀ p ∈ c.ctrlTable, ∀ d : Disparity,
    decodeSymbol c (rawOf (encodeByte c p.1 true d).1) d = some (p.1, true, (encodeByte c p.1 true d).2)) ∧
  (∀ p ∈ chip.ctrlTable, ∀ d : Disparity,
    decodeSymbol chip (rawOf (encodeByte chip p.1 true d).1) d = some (p.1, true, (encodeByte chip p.1 true d).2))

/-- R111: the complement of a sent data symbol, decoded at the opposite disparity, gives the same byte as data, with the
next disparity `AFTER` of the complement; and that need not be the flip of the encoder's next disparity. -/
def Obligations.ComplementDecodesAtOppositeDisparity : Prop :=
  (∀ c : Config, c.WellFormed → ∀ (b : Byte) (d : Disparity),
    decodeSymbol c (rawOf (complement10 (encodeByte c b false d).1)) (flipDisparity d) =
      some (b, false, afterSymbol (flipDisparity d) (complement10 (encodeByte c b false d).1))) ∧
  (∃ c : Config, c.WellFormed ∧ ∃ b d, afterSymbol (flipDisparity d) (complement10 (encodeByte c b false d).1) ≠
    flipDisparity (encodeByte c b false d).2)

/-- R112: `is_control` is true exactly on the comma path and on a control table hit; it is a property of the received
code, and false for a byte that was sent with the flag but is not in the control table. -/
def Obligations.DecodedControlFlag : Prop :=
  (∀ (c : Config) (s : U16) (d : Disparity) (b : Byte) (k : Bool) (d' : Disparity),
    decodeSymbol c s d = some (b, k, d') →
    (k = true ↔ isComma s = true ∨ (ctrlBySym c (withDisparity d (codeOf s))).isSome)) ∧
  (∀ c : Config, c.WellFormed → ∀ b ∉ c.controlBytes, ∀ d,
    ∃ d', decodeSymbol c (rawOf (encodeByte c b true d).1) d = some (b, false, d'))

/-! ### 45_constructors_and_stream.md -/

/-- R113: `SYMCHK` answers the code of a symbol in range and `none` above `0x3FF`; the boundary is exact and nothing but
the range is checked. -/
def Obligations.SymchkAnswersRangeCheck : Prop :=
  (∀ (sym : U16) (s : State), exec (.symchk sym) s = .next { s with responses := s.responses ++ [
    if sym.toNat > 0x3FF then { valid := false, rdOut := 0#1, kOut := 0#1, dataOut := 0#10 }
    else { valid := true, rdOut := 0#1, kOut := 0#1, dataOut := sym.extractLsb' 0 10 } ] }) ∧
  (∀ sym, (ReqWord.op (encodeRequest (.symchk sym))) = 6#4) ∧
  (symbolChecked 0x03FF#16).toOption = some 0x3FF#10 ∧ (symbolChecked 0x0400#16).toOption = none ∧
  (symbolChecked 0x0000#16).toOption = some 0x000#10 ∧ (symbolChecked 0x00FA#16).toOption = some 0x0FA#10

/-- R114: `SYMRAW` answers the code within its precondition and is refused outside it: not truncated, not `none`. -/
def Obligations.SymrawAnswersOrIsRefused : Prop :=
  (∀ (sym : U16) (s : State), sym.toNat ≤ 0x3FF →
    exec (.symraw sym) s = .next { s with responses := s.responses ++
      [{ valid := true, rdOut := 0#1, kOut := 0#1, dataOut := sym.extractLsb' 0 10 }] }) ∧
  (∀ (sym : U16) (s : State), 0x3FF < sym.toNat → exec (.symraw sym) s = .refused .symrawOutOfRange) ∧
  (∀ sym, (ReqWord.op (encodeRequest (.symraw sym))) = 7#4) ∧
  (∀ s : State, exec (.symraw 0x0305#16) s = .next { s with responses := s.responses ++
    [{ valid := true, rdOut := 0#1, kOut := 0#1, dataOut := 0x305#10 }] })

/-- R119: `TXSTEP` is `ENCODE` at `ctx.rd`; `ctx.rd` is written, always, to the next disparity; with the example of the
default tables. -/
def Obligations.TxstepEncodesAndWritesRd : Prop :=
  (∀ (k : Bool) (b : Byte) (s : State), exec (.txstep k b) s = .next
    { s with
      rd := (encodeByte chip b k s.rd).2,
      responses := s.responses ++
        [{ valid := true, rdOut := (encodeByte chip b k s.rd).2.toBit, kOut := 0#1,
           dataOut := (encodeByte chip b k s.rd).1 }] }) ∧
  (∀ k b, (ReqWord.op (encodeRequest (.txstep k b))) = 8#4) ∧
  (∀ s : State, s.rd = .negative → exec (.txstep true 0xBC#8) s = .next
    { s with
      rd := .positive,
      responses := s.responses ++ [{ valid := true, rdOut := 1#1, kOut := 0#1, dataOut := 0x0FA#10 }] })

/-- `RXSTEP` is `DECODE` at `ctx.rd`; `ctx.rd` is written only when the symbol is accepted, and held on rejection. -/
def Obligations.RxstepDecodesAndHoldsOnRejection : Prop :=
  ∀ (sym : U16) (s : State),
    (∀ b k d', decodeSymbol chip sym s.rd = some (b, k, d') → exec (.rxstep sym) s = .next
      { s with
        rd := d',
        responses := s.responses ++
          [{ valid := true, rdOut := d'.toBit, kOut := if k then 1#1 else 0#1, dataOut := b.setWidth 10 }] }) ∧
    (decodeSymbol chip sym s.rd = none → exec (.rxstep sym) s = .next
      { s with responses := s.responses ++ [{ valid := false, rdOut := 0#1, kOut := 0#1, dataOut := 0#10 }] })

/-- R121: `RDSET` loads `ctx.rd` and answers what it loaded; a context reset leaves the same `ctx.rd` as
`RDSET RD_INIT`. -/
def Obligations.RdsetLoadsRd : Prop :=
  (∀ (d : Disparity) (s : State), exec (.rdset d) s = .next
    { s with
      rd := d,
      responses := s.responses ++
        [{ valid := true, kOut := 0#1, dataOut := 0#10, rdOut := match d with | .negative => 0#1 | .positive => 1#1 }] }) ∧
  (∀ d, (ReqWord.op (encodeRequest (.rdset d))) = 10#4) ∧
  (∀ (c : Config) (s : State), ∃ t, execWith c (.rdset c.rdInit) s = .next t ∧ t.rd = (s.resetContext c).rd)

/-- R122: the context form and band2's threaded form are the same machine, in both directions, as runs of `stepWith`
over the caller's requests. -/
def Obligations.ContextFormIsThreadedForm : Prop :=
  (∀ (c : Config) (d0 : Disparity) (ws : List (Byte × Bool)) (s : State),
    s.inputs = (Instr.rdset d0 :: ws.map (fun w => Instr.txstep w.2 w.1)).map (fun i => Input.request (encodeRequest i)) →
    runWith c (ws.length + 1) s = .next
      { rd := (threadEncode c d0 ws).2, inputs := [],
        responses := s.responses ++ [Response.ofDisparity d0] ++ (threadEncode c d0 ws).1.map Response.ofSymbol }) ∧
  (∀ (c : Config) (d0 : Disparity) (ss : List U16) (s : State) (rs : List (Byte × Bool × Disparity)) (dn : Disparity),
    s.inputs = (Instr.rdset d0 :: ss.map Instr.rxstep).map (fun i => Input.request (encodeRequest i)) →
    threadDecode c d0 ss = some (rs, dn) →
    runWith c (ss.length + 1) s = .next
      { rd := dn, inputs := [],
        responses := s.responses ++ [Response.ofDisparity d0] ++ rs.map (fun r => Response.ofDataWord (some r)) })

/-- R124: over a link whose two contexts start at the same disparity every symbol is accepted, every byte arrives, the
control flag arrives exactly when it was set on a control byte, and the two contexts end at the same disparity. -/
def Obligations.LoopbackDeliversTheStream : Prop :=
  ∀ c : Config, c.WellFormed → ∀ (ws : List (Byte × Bool)) (tx rx : State), tx.rd = rx.rd →
    ∃ tx' rx' : State, linkWords c ws tx rx = .next (tx', rx') ∧ tx'.rd = rx'.rd ∧
      ∃ rs : List Response, rx'.responses = rx.responses ++ rs ∧
        rs.map (fun r => (r.valid, r.dataOut, r.kOut)) =
          ws.map (fun w => (true, w.1.setWidth 10, if w.2 = true ∧ w.1 ∈ c.controlBytes then 1#1 else 0#1))

/-! ### 60_exceptions.md and 70_reset_and_hazards.md -/

/-- R128: the decoder tests comma, F1, F2, F3 in this order, so each input has exactly one outcome. -/
def Obligations.FailureKindsInOrder : Prop :=
  ∀ (c : Config) (s : U16) (d : Disparity),
    (isComma s = true → ∃ r, decodeChecked c s d = .ok r) ∧
    (decodeChecked c s d = .error .malformedSymbol ↔ 0x3FF < s.toNat) ∧
    (decodeChecked c s d = .error .disparityInvalid ↔
      s.toNat ≤ 0x3FF ∧ (popcount s < 4 ∨ 6 < popcount s)) ∧
    (decodeChecked c s d = .error .unmapped ↔
      isComma s = false ∧ s.toNat ≤ 0x3FF ∧ 4 ≤ popcount s ∧ popcount s ≤ 6 ∧
      ctrlBySym c (withDisparity d (codeOf s)) = none ∧ decPos c (withDisparity d (codeOf s)) = none) ∧
    decodeChecked c s d ≠ .error .constructorRange

/-- R129: a failure changes nothing: whatever operation answers `none`, `ctx.rd` and the caller's inputs are as before,
and nothing of the symbol is kept. -/
def Obligations.FailureChangesNothing : Prop :=
  ∀ (c : Config) (i : Instr) (s t : State), execWith c i s = .next t →
    ∀ r, t.responses = s.responses ++ [r] → r.valid = false →
      t.rd = s.rd ∧ t.inputs = s.inputs ∧ r = { valid := false, rdOut := 0#1, kOut := 0#1, dataOut := 0#10 }

/-- Only `DECODE`, `RXSTEP` and `SYMCHK` can fail (R127). -/
def Obligations.OnlyDecodersAndCheckFail : Prop :=
  ∀ (c : Config) (i : Instr) (s t : State) (r : Response),
    execWith c i s = .next t → t.responses = s.responses ++ [r] → r.valid = false →
    (∃ d sym, i = .decode d sym) ∨ (∃ sym, i = .rxstep sym) ∨ (∃ sym, i = .symchk sym ∧ 0x3FF < sym.toNat)

/-- The counter-example of R145, with the default tables of `chip` (log 1): from Negative the bytes 0x01, 0x03 repeated send two
more zeros than ones for every pair, without limit, and return to Negative. -/
def Obligations.RunningSumDriftsWithoutBound : Prop :=
  ∀ n : Nat,
    runningSum ((threadEncode chip .negative
      (List.replicate n [(0x01#8, false), (0x03#8, false)]).flatten).1.map Prod.fst) = -2 * (n : Int) ∧
    (threadEncode chip .negative (List.replicate n [(0x01#8, false), (0x03#8, false)]).flatten).2 = .negative

/-- A received comma does not resynchronise: two receivers at different disparities are still at different ones after
taking the same comma (R147). -/
def Obligations.CommaDoesNotResynchronise : Prop :=
  ∀ (c : Config) (sym : U16) (s s' t t' : State), isComma sym = true → s.rd ≠ s'.rd →
    execWith c (.rxstep sym) s = .next t → execWith c (.rxstep sym) s' = .next t' → t.rd ≠ t'.rd
end

