-- ==== Sys2Proof/Laws/State.lean ====
section
/-!
SUPPORT. One lemma per field per update of State, so that no later proof unfolds a record update.
-/

namespace Sys2Proof.Machine

open Sys2Proof

@[simp] theorem State.setRd_rd (s : State) (d : Disparity) : (s.setRd d).rd = d := rfl
@[simp] theorem State.setRd_inputs (s : State) (d : Disparity) : (s.setRd d).inputs = s.inputs := rfl
@[simp] theorem State.setRd_responses (s : State) (d : Disparity) : (s.setRd d).responses = s.responses := rfl

@[simp] theorem State.deliver_rd (s : State) (r : Response) : (s.deliver r).rd = s.rd := rfl
@[simp] theorem State.deliver_inputs (s : State) (r : Response) : (s.deliver r).inputs = s.inputs := rfl
@[simp] theorem State.deliver_responses (s : State) (r : Response) :
    (s.deliver r).responses = s.responses ++ [r] := rfl

@[simp] theorem State.withInputs_rd (s : State) (l : List Input) : (s.withInputs l).rd = s.rd := rfl
@[simp] theorem State.withInputs_inputs (s : State) (l : List Input) : (s.withInputs l).inputs = l := rfl
@[simp] theorem State.withInputs_responses (s : State) (l : List Input) :
    (s.withInputs l).responses = s.responses := rfl

@[simp] theorem State.issue_rd (s : State) (w : ReqWord) : (s.issue w).rd = s.rd := rfl
@[simp] theorem State.issue_inputs (s : State) (w : ReqWord) : (s.issue w).inputs = .request w :: s.inputs := rfl
@[simp] theorem State.issue_responses (s : State) (w : ReqWord) : (s.issue w).responses = s.responses := rfl

@[simp] theorem State.resetContext_rd (c : Config) (s : State) : (s.resetContext c).rd = c.rdInit := rfl
@[simp] theorem State.resetContext_inputs (c : Config) (s : State) : (s.resetContext c).inputs = s.inputs := rfl
@[simp] theorem State.resetContext_responses (c : Config) (s : State) :
    (s.resetContext c).responses = s.responses := rfl

@[simp] theorem State.resetWith_rd (c : Config) : (State.resetWith c).rd = c.rdInit := rfl
@[simp] theorem State.resetWith_inputs (c : Config) : (State.resetWith c).inputs = [] := rfl
@[simp] theorem State.resetWith_responses (c : Config) : (State.resetWith c).responses = [] := rfl

/-- Two states with the same fields are the same state. -/
theorem State.ext_fields {s t : State} (hrd : s.rd = t.rd) (hin : s.inputs = t.inputs)
    (hout : s.responses = t.responses) : s = t := by
  cases s; cases t; simp_all

@[simp] theorem Response.absent_valid : Response.absent.valid = false := rfl
@[simp] theorem Response.ofSymbol_valid (r : Sym10 × Disparity) : (Response.ofSymbol r).valid = true := rfl
@[simp] theorem Response.ofSymbol_dataOut (r : Sym10 × Disparity) : (Response.ofSymbol r).dataOut = r.1 := rfl
@[simp] theorem Response.ofBool_valid (b : Bool) : (Response.ofBool b).valid = true := rfl
@[simp] theorem Response.ofDisparity_valid (d : Disparity) : (Response.ofDisparity d).valid = true := rfl
@[simp] theorem Response.ofCode_valid (v : Sym10) : (Response.ofCode v).valid = true := rfl
@[simp] theorem Response.ofDataWord_none : Response.ofDataWord none = Response.absent := rfl
@[simp] theorem Response.ofDataWord_some_valid (r : Byte × Bool × Disparity) :
    (Response.ofDataWord (some r)).valid = true := rfl
@[simp] theorem Response.ofCode?_none : Response.ofCode? none = Response.absent := rfl
@[simp] theorem Response.ofCode?_some (v : Sym10) : Response.ofCode? (some v) = Response.ofCode v := rfl

end Sys2Proof.Machine
end

