-- ==== Sys2Proof/Laws/Flags.lean ====
section
/-!
SUPPORT. The arithmetic of R153: population count, its split over the sub-blocks of a code, the 10-bit complement; and
what each computation of the disparity can answer.
-/

namespace Sys2Proof.Machine

open Sys2Proof

/-- A property of every code follows from the 32 times 32 numbers. -/
theorem sym10_cases {P : Sym10 → Prop} (h : ∀ y < 32, ∀ x < 32, P (BitVec.ofNat 10 (32 * y + x))) (v : Sym10) : P v := by
  have hv := v.isLt
  have := h (v.toNat / 32) (by omega) (v.toNat % 32) (by omega)
  rwa [Nat.div_add_mod, BitVec.ofNat_toNat, BitVec.setWidth_eq] at this

/-- A count never exceeds the width (R153 (d)). -/
theorem popcount_le {w : Nat} (v : BitVec w) : popcount v ≤ w := by
  unfold popcount
  exact (List.countP_le_length).trans (by simp)

/-- The bits of a zero-extended value above its width count nothing. -/
theorem popcount_setWidth {w w' : Nat} (h : w ≤ w') (v : BitVec w) : popcount (v.setWidth w') = popcount v := by
  obtain ⟨k, rfl⟩ := Nat.exists_eq_add_of_le h
  have low : List.countP (fun i => (v.setWidth (w + k)).getLsbD i) (List.range w) =
      List.countP (fun i => v.getLsbD i) (List.range w) := by
    refine List.countP_congr fun i hi => ?_
    have : i < w + k := by have := List.mem_range.mp hi; omega
    simp [this]
  have high : List.countP (fun i => (v.setWidth (w + k)).getLsbD i) ((List.range k).map (w + ·)) = 0 := by
    refine List.countP_eq_zero.mpr fun i hi => ?_
    obtain ⟨j, -, rfl⟩ := List.mem_map.mp hi
    simp
  unfold popcount
  rw [List.range_add, List.countP_append, low, high, Nat.add_zero]

/-- The count of a code is the sum of the counts of its sub-blocks (R153 (d)). -/
theorem popcount_split (v : Sym10) : popcount v = popcount (sixPart v) + popcount (fourPart v) := by
  simp [popcount, sixPart, fourPart, List.range_succ, List.countP_cons, BitVec.getLsbD_extractLsb']
  omega

/-- The complement is its own inverse. -/
@[simp] theorem complement10_complement10 (v : Sym10) : complement10 (complement10 v) = v := by
  simp [complement10]

@[simp] theorem withDisparity_positive (v : Sym10) : withDisparity .positive v = v := rfl
@[simp] theorem withDisparity_negative (v : Sym10) : withDisparity .negative v = complement10 v := rfl
@[simp] theorem flipDisparity_negative : flipDisparity .negative = .positive := rfl
@[simp] theorem flipDisparity_positive : flipDisparity .positive = .negative := rfl

/-- The complement counts what the value does not (R153 (e)). -/
theorem popcount_add_complement (v : Sym10) : popcount v + popcount (complement10 v) = 10 := by
  simp [popcount, complement10, List.range_succ, List.countP_cons]
  have h : ∀ b : Bool, (if b = true then 1 else 0) + (if b = false then 1 else 0) = 1 := by decide
  have := h v[0]; have := h v[1]; have := h v[2]; have := h v[3]; have := h v[4]
  have := h v[5]; have := h v[6]; have := h v[7]; have := h v[8]; have := h v[9]
  omega

end Sys2Proof.Machine
end

