-- ==== Sys2Proof/Laws/Tables.lean ====
section
/-!
SUPPORT. What the table lookups can answer (R59, R61, R62), and that the default tables meet R8 (R69).
-/

namespace Sys2Proof.Machine

open Sys2Proof

/-- Every byte is in the list the inverse table is scanned over. -/
theorem mem_allBytes (b : Byte) : b ∈ allBytes := by
  refine List.mem_map.mpr ⟨b.toNat, List.mem_range.mpr b.isLt, ?_⟩
  simp

/-- A byte the inverse table answers has the symbol that was looked up. -/
theorem encPos_of_decPos {c : Config} {v : Sym10} {b : Byte} (h : decPos c v = some b) : c.encPos b = v := by
  simpa [encPosRead] using List.find?_some h

/-- The inverse table answers `none` only for a symbol that no byte has. -/
theorem encPos_ne_of_decPos_none {c : Config} {v : Sym10} (h : decPos c v = none) (b : Byte) : c.encPos b ≠ v := by
  simpa [encPosRead] using List.find?_eq_none.mp h b (mem_allBytes b)

/-- Under W2 the inverse table answers the byte that has the symbol. -/
theorem decPos_encPos {c : Config} (h2 : c.W2) (b : Byte) : decPos c (c.encPos b) = some b := by
  cases h : decPos c (c.encPos b) with
  | none => exact absurd rfl (encPos_ne_of_decPos_none h b)
  | some b' => rw [h2 b' b (encPos_of_decPos h)]

theorem mem_of_scanByByte {l : List (Byte × Sym10)} {b : Byte} {v : Sym10} (h : scanByByte l b = some v) :
    (b, v) ∈ l := by
  induction l with
  | nil => simp [scanByByte] at h
  | cons p rest ih =>
    obtain ⟨kbyte, ksym⟩ := p
    by_cases e : kbyte = b
    · simp [scanByByte, e] at h; simp [e, h]
    · simp [scanByByte, e] at h; simp [ih h]

theorem scanByByte_none_iff {l : List (Byte × Sym10)} {b : Byte} : scanByByte l b = none ↔ b ∉ l.map Prod.fst := by
  induction l with
  | nil => simp [scanByByte]
  | cons p rest ih =>
    obtain ⟨kbyte, ksym⟩ := p
    by_cases e : kbyte = b
    · simp [scanByByte, e]
    · simp only [scanByByte, e, if_false, ih, List.map_cons, List.mem_cons, not_or]
      exact ⟨fun h => ⟨Ne.symm e, h⟩, And.right⟩

theorem mem_of_scanBySym {l : List (Byte × Sym10)} {b : Byte} {v : Sym10} (h : scanBySym l v = some b) :
    (b, v) ∈ l := by
  induction l with
  | nil => simp [scanBySym] at h
  | cons p rest ih =>
    obtain ⟨kbyte, ksym⟩ := p
    by_cases e : ksym = v
    · simp [scanBySym, e] at h; simp [e, h]
    · simp [scanBySym, e] at h; simp [ih h]

theorem scanBySym_none_iff {l : List (Byte × Sym10)} {v : Sym10} : scanBySym l v = none ↔ v ∉ l.map Prod.snd := by
  induction l with
  | nil => simp [scanBySym]
  | cons p rest ih =>
    obtain ⟨kbyte, ksym⟩ := p
    by_cases e : ksym = v
    · simp [scanBySym, e]
    · simp only [scanBySym, e, if_false, ih, List.map_cons, List.mem_cons, not_or]
      exact ⟨fun h => ⟨Ne.symm e, h⟩, And.right⟩

/-- Two entries of a list whose keys are distinct and that have the same key are the same entry. -/
theorem eq_of_nodup_map {α β : Type} {f : α → β} {l : List α} (hn : (l.map f).Nodup) {x y : α}
    (hx : x ∈ l) (hy : y ∈ l) (h : f x = f y) : x = y :=
  List.inj_on_of_nodup_map hn hx hy h

/-- The positive symbol of a byte is its control entry's, when the flag is set and it has one, or its data symbol. -/
theorem resolvePositive_cases (c : Config) (b : Byte) (k : Bool) :
    (k = true ∧ (b, resolvePositive c b k) ∈ c.ctrlTable) ∨
    ((k = false ∨ b ∉ c.controlBytes) ∧ resolvePositive c b k = c.encPos b) := by
  cases k with
  | false => exact .inr ⟨.inl rfl, rfl⟩
  | true =>
    cases h : ctrlByByte c b with
    | none => exact .inr ⟨.inr (scanByByte_none_iff.mp h), by simp [resolvePositive, h, encPosRead]⟩
    | some v => exact .inl ⟨rfl, by simpa [resolvePositive, h] using mem_of_scanByByte h⟩

/-! ### The default tables meet R8 (R69) -/

/-- A property of every byte follows from the 8 times 32 labels Dx.y. -/
theorem byte_cases {P : Byte → Prop} (h : ∀ y < 8, ∀ x < 32, P (BitVec.ofNat 8 (32 * y + x))) (b : Byte) : P b := by
  have hb := b.isLt
  have := h (b.toNat / 32) (by omega) (b.toNat % 32) (by omega)
  rwa [Nat.div_add_mod, BitVec.ofNat_toNat, BitVec.setWidth_eq] at this

/-- Each default symbol decodes to its byte, so the default table is injective. -/
theorem chip_w2 : chip.W2 := by
  have inverse : ∀ b, decPos chip (chip.encPos b) = some b := byte_cases (by decide +kernel)
  intro b b' h
  have hb := inverse b
  rw [h, inverse b'] at hb
  exact (Option.some.inj hb).symm

theorem chip_w4 : chip.W4 := by
  have h : ∀ b, (chip.ctrlTable.all fun p => decide (p.2 ≠ chip.encPos b)) = true := byte_cases (by decide +kernel)
  exact fun p hp b => of_decide_eq_true (List.all_eq_true.mp (h b) p hp)

theorem chip_w5 : chip.W5 := byte_cases (by decide +kernel)

theorem chip_w7 : chip.W7 := byte_cases (by decide +kernel)

theorem chip_w8 : chip.W8 := by
  have h : (chip.ctrlTable.all fun p =>
      decide ((p.1 ≠ chip.commaByte → ¬ Config.IsCommaCode p.2) ∧ Config.BalancedCount p.2)) = true := by decide +kernel
  exact fun p hp => of_decide_eq_true (List.all_eq_true.mp h p hp)

/-- The default tables meet W1 to W8 of R8. -/
theorem chip_wellFormed : chip.WellFormed where
  short := by unfold Config.ShortControlTable; decide +kernel
  w1 := fun b => Nat.le_of_lt_succ (chip.encPos b).isLt
  w2 := chip_w2
  w3 := by unfold Config.W3; decide +kernel
  w4 := chip_w4
  w5 := chip_w5
  w6 := by unfold Config.W6; decide +kernel
  w7 := chip_w7
  w8 := chip_w8

end Sys2Proof.Machine
end

