-- ==== Sys2Proof/Laws/Decoder.lean ====
section
/-!
SUPPORT. What the comma detector, the encoder and the decoder can answer, each said once.
-/

namespace Sys2Proof.Machine

open Sys2Proof

@[simp] theorem codeOf_rawOf (v : Sym10) : codeOf (rawOf v) = v := by
  refine BitVec.eq_of_getLsbD_eq fun i hi => ?_
  simp only [codeOf, rawOf, BitVec.getLsbD_extractLsb', BitVec.getLsbD_setWidth]
  simp [hi, show i < 16 by omega]

@[simp] theorem inRange_rawOf (v : Sym10) : inRange (rawOf v) = true := by
  have := v.isLt
  simp [inRange, rawOf]
  omega

@[simp] theorem popcount_rawOf (v : Sym10) : popcount (rawOf v) = popcount v := popcount_setWidth (by decide) v

/-- A symbol in range is its own code. -/
theorem rawOf_codeOf {s : U16} (h : inRange s = true) : rawOf (codeOf s) = s := by
  apply BitVec.eq_of_toNat_eq
  simp [inRange] at h
  simp [rawOf, codeOf, Nat.shiftRight_zero]
  omega

/-- On a code, the 16-bit comparison is the comparison with the two comma codes. -/
theorem isComma_rawOf (v : Sym10) : isComma (rawOf v) = true ↔ Config.IsCommaCode v := by
  have inj : ∀ a b : Sym10, rawOf a = rawOf b ↔ a = b := fun a b =>
    ⟨fun h => by simpa using congrArg codeOf h, congrArg rawOf⟩
  simp [isComma, inj, Config.IsCommaCode, or_comm]

/-- Everything the decoder can accept: a comma, a control table hit or a data hit, each with its next disparity (R96). -/
theorem decodeSymbol_some {c : Config} {s : U16} {d : Disparity} {r : Byte × Bool × Disparity}
    (h : decodeSymbol c s d = some r) :
    (isComma s = true ∧ r = (c.commaByte, true, flipDisparity d)) ∨
    (isComma s = false ∧ inRange s = true ∧ 4 ≤ popcount s ∧ popcount s ≤ 6 ∧
      ((∃ kb, ctrlBySym c (withDisparity d (codeOf s)) = some kb ∧ r = (kb, true, afterSymbol d (codeOf s))) ∨
       (∃ db, ctrlBySym c (withDisparity d (codeOf s)) = none ∧ decPos c (withDisparity d (codeOf s)) = some db ∧
         r = (db, false, afterSymbol d (codeOf s))))) := by
  unfold decodeSymbol decodeChecked at h
  split at h
  · rename_i hc
    exact .inl ⟨hc, by simpa [Except.toOption] using h.symm⟩
  · rename_i hc
    split at h
    · rename_i hr
      split at h
      · simp [Except.toOption] at h
      · rename_i hp
        refine .inr ⟨by simpa using hc, hr, by omega, by omega, ?_⟩
        unfold lookupSymbol at h
        split at h
        · rename_i kb hk
          exact .inl ⟨kb, hk, by simpa [Except.toOption] using h.symm⟩
        · rename_i hk
          split at h
          · simp [Except.toOption] at h
          · rename_i db hd
            exact .inr ⟨db, hk, hd, by simpa [Except.toOption] using h.symm⟩
    · simp [Except.toOption] at h

/-- A code that is no comma and has a legal bit count is looked up (steps 4 to 6 of R96). -/
theorem decodeSymbol_rawOf {c : Config} {v : Sym10} {d : Disparity} (hc : ¬ Config.IsCommaCode v)
    (hb : Config.BalancedCount v) : decodeSymbol c (rawOf v) d = (lookupSymbol c v d).toOption := by
  have hc' : isComma (rawOf v) = false := by
    rw [← Bool.not_eq_true, isComma_rawOf]
    exact hc
  obtain ⟨h4, h6⟩ := hb
  simp [decodeSymbol, decodeChecked, hc', show ¬ (popcount v < 4 ∨ popcount v > 6) by omega]

end Sys2Proof.Machine
end

