-- ==== Sys2Proof/Laws/Exec.lean ====
section
/-!
SUPPORT. What one operation and one step can do, each said once, and that `exec` and `step` are the machine of Generic
at `chip`.
-/

namespace Sys2Proof.Machine

open Sys2Proof

theorem exec_eq_execWith (i : Instr) (s : State) : exec i s = execWith chip i s := by
  cases i <;> rfl

theorem step_eq_stepWith (s : State) : step s = stepWith chip s := by
  simp only [step, stepWith, funext fun i => funext fun s => exec_eq_execWith i s]

/-- Everything an operation can do: it takes nothing from the caller's inputs and delivers one response. -/
theorem execWith_next {c : Config} {i : Instr} {s t : State} (h : execWith c i s = .next t) :
    ∃ (d : Disparity) (r : Response), t = (s.setRd d).deliver r := by
  cases i with
  | symraw sym =>
    simp only [execWith, execSymRaw] at h
    split at h
    · cases h; exact ⟨s.rd, _, rfl⟩
    · cases h
  | _ => cases h; exact ⟨_, _, rfl⟩

/-- No operation faults: there is no fault (R125). -/
theorem execWith_ne_fault {c : Config} {i : Instr} {s : State} {r : Fault} : execWith c i s ≠ .fault r := nomatch r

/-- The only refusal of an operation is `SYMRAW` outside its precondition (R114). -/
theorem execWith_refused {c : Config} {i : Instr} {s : State} {r : Refusal} (h : execWith c i s = .refused r) :
    i.wellFormed = false ∧ r = .symrawOutOfRange := by
  cases i with
  | symraw sym =>
    simp only [execWith, execSymRaw] at h
    split at h
    · cases h
    · rename_i hr
      exact ⟨by simpa [Instr.wellFormed, inRange] using hr, by cases h; rfl⟩
  | _ => cases h

/-- Everything a step can do when it answers a next state. -/
theorem stepBy_next {c : Config} {ex : Instr → State → Outcome} {s t : State} (h : stepBy c ex s = .next t) :
    (s.inputs = [] ∧ t = s) ∨
    (∃ rest, s.inputs = .resetContext :: rest ∧ t = (s.withInputs rest).resetContext c) ∨
    (∃ w rest i, s.inputs = .request w :: rest ∧ decodeRequest w = .ok i ∧ ex i (s.withInputs rest) = .next t) := by
  unfold stepBy fetch at h
  cases hin : s.inputs with
  | nil => simp only [hin] at h; exact .inl ⟨rfl, by cases h; rfl⟩
  | cons x rest =>
    cases x with
    | resetContext => simp only [hin] at h; exact .inr (.inl ⟨rest, rfl, by cases h; rfl⟩)
    | request w =>
      simp only [hin] at h
      cases hw : decodeRequest w with
      | ok i => simp only [hw] at h; exact .inr (.inr ⟨w, rest, i, rfl, hw, h⟩)
      | error m => simp only [hw] at h; cases h

end Sys2Proof.Machine
end

