-- ==== Sys2Proof/Laws/PerInstr.lean ====
section
/-!
SUPPORT. Statements made per instruction: the operation select field of an encoded request is the operation's code of
R48, and its `data` field is the operation's data operand.
-/

namespace Sys2Proof.Laws.OpField

open Sys2Proof

/-- Bit `i` of a request word, by the field it stands in. -/
theorem getLsbD_packRequest (op : BitVec 4) (rd k : BitVec 1) (data : BitVec 16) (i : Nat) :
    (packRequest op rd k data).getLsbD i =
      if i < 16 then data.getLsbD i
      else if i < 17 then k.getLsbD (i - 16)
      else if i < 18 then rd.getLsbD (i - 17)
      else op.getLsbD (i - 18) := by
  have e : packRequest op rd k data = ((op ++ rd) ++ k) ++ data := rfl
  simp only [e, BitVec.getLsbD_append]
  grind

/-- The fields of the request word are read back where they were put. -/
theorem fields_of_packRequest (op : BitVec 4) (rd k : BitVec 1) (data : BitVec 16) :
    ReqWord.op (packRequest op rd k data) = op ∧ ReqWord.rd (packRequest op rd k data) = rd ∧
    ReqWord.k (packRequest op rd k data) = k ∧ ReqWord.data (packRequest op rd k data) = data := by
  refine ⟨?_, ?_, ?_, ?_⟩ <;> refine BitVec.eq_of_getLsbD_eq fun i hi => ?_ <;>
    simp only [ReqWord.op, ReqWord.rd, ReqWord.k, ReqWord.data, BitVec.getLsbD_extractLsb', getLsbD_packRequest, hi] <;>
    grind

/-- The `op` and `data` fields of the encoded request. -/
def Statement (i : Instr) : Prop :=
  ReqWord.op (encodeRequest i) = i.opcode ∧ ReqWord.data (encodeRequest i) = i.dataField

theorem statement_holds (i : Instr) : Statement i :=
  ⟨(fields_of_packRequest _ _ _ _).1, (fields_of_packRequest _ _ _ _).2.2.2⟩

theorem encode (d : Disparity) (k : Bool) (b : Byte) : Statement (.encode d k b) := statement_holds _
theorem decode (d : Disparity) (s : U16) : Statement (.decode d s) := statement_holds _
theorem iscomma (s : U16) : Statement (.iscomma s) := statement_holds _
theorem after (d : Disparity) (c : Sym10) : Statement (.after d c) := statement_holds _
theorem flip (d : Disparity) : Statement (.flip d) := statement_holds _
theorem withd (d : Disparity) (c : Sym10) : Statement (.withd d c) := statement_holds _
theorem symchk (s : U16) : Statement (.symchk s) := statement_holds _
theorem symraw (s : U16) : Statement (.symraw s) := statement_holds _
theorem txstep (k : Bool) (b : Byte) : Statement (.txstep k b) := statement_holds _
theorem rxstep (s : U16) : Statement (.rxstep s) := statement_holds _
theorem rdset (d : Disparity) : Statement (.rdset d) := statement_holds _

end Sys2Proof.Laws.OpField
end

