-- ==== Sys2Proof/Tests/Slice0.lean ====
section
/-!
SUPPORT. The model's own tests. Expected values come from spec/95_test_vectors.md (the section is named in each
comment) or are worked out by hand from a rule; the last part shows that the hypotheses of the statements can be met.
-/

namespace Sys2Proof.Tests

open Sys2Proof Sys2Proof.Machine

/-! ### Well-formedness -/

/-- R114: `0x400` is the smallest value outside the precondition of `SYMRAW`. -/
theorem test_symraw_400_ill_formed : (Instr.symraw 0x0400#16).wellFormed = false := by decide
theorem test_symraw_3ff_well_formed : (Instr.symraw 0x03FF#16).wellFormed = true := by decide

/-! ### Decoding: words written out bit by bit from R46 and R49 (op, rd, k, data) -/

theorem test_decode_encode :
    decodeRequest 0b0000_1_1_0000000010111100#22 = .ok (.encode .positive true 0xBC#8) := by decide
theorem test_decode_decode :
    decodeRequest 0b0001_0_0_0000000100000000#22 = .ok (.decode .negative 0x0100#16) := by decide
theorem test_decode_iscomma : decodeRequest 0b0010_0_0_1000001100000101#22 = .ok (.iscomma 0x8305#16) := by decide
theorem test_decode_after : decodeRequest 0b0011_1_0_0000001111000001#22 = .ok (.after .positive 0x3C1#10) := by decide
theorem test_decode_flip : decodeRequest 0b0100_0_0_0000000000000000#22 = .ok (.flip .negative) := by decide
theorem test_decode_withd : decodeRequest 0b0101_0_0_0000001100000101#22 = .ok (.withd .negative 0x305#10) := by decide
theorem test_decode_symchk : decodeRequest 0b0110_0_0_0000010000000000#22 = .ok (.symchk 0x0400#16) := by decide
theorem test_decode_symraw : decodeRequest 0b0111_0_0_0000001100000101#22 = .ok (.symraw 0x0305#16) := by decide
theorem test_decode_txstep : decodeRequest 0b1000_0_1_0000000011111011#22 = .ok (.txstep true 0xFB#8) := by decide
theorem test_decode_rxstep : decodeRequest 0b1001_0_0_1000000000000001#22 = .ok (.rxstep 0x8001#16) := by decide
theorem test_decode_rdset : decodeRequest 0b1010_1_0_0000000000000000#22 = .ok (.rdset .positive) := by decide

/-- The reserved requests of 95_test_vectors.md section 2.8. -/
theorem test_reserved_requests :
    decodeRequest 0x2C0000#22 = .error (.reservedOp 11#4) ∧ decodeRequest 0x3C0000#22 = .error (.reservedOp 15#4) ∧
    decodeRequest 0x0001BC#22 = .error (.mustBeZero 0#4) ∧ decodeRequest 0x0900FA#22 = .error (.mustBeZero 2#4) ∧
    decodeRequest 0x100001#22 = .error (.mustBeZero 4#4) := by decide

/-- The rows of the operation table do not overlap: two rows differ in a bit that both fix. -/
theorem test_rows_disjoint :
    opcodeTable.Pairwise (fun a b => (a.pattern ^^^ b.pattern) &&& (a.mask &&& b.mask) ≠ 0#22) := by decide

/-- A table word counts from bit 0, and a number above 22 bits is no request. -/
theorem test_table_word :
    decodeTableWord 24 0x2A0000 = some (.rdset .positive) ∧ decodeTableWord 22 0x2A0000 = some (.rdset .positive) ∧
    decodeTableWord 24 0x6A0000 = none ∧ decodeTableWord 24 0x2C0000 = none := by decide

/-! ### One request on a context: `ctx.rd` before, the request, `ctx.rd` after and the response word -/

/-- The context holding `d`, about to take one request. -/
def before (d : Disparity) (w : ReqWord) : State := ⟨d, [.request w], []⟩

/-- The step answers a next state with this `ctx.rd` and this one response word. -/
def answers (s : State) (d : Disparity) (r : RespWord) : Bool :=
  match step s with
  | .next t => t.rd == d && t.inputs == [] && t.responses.map Response.word == [r]
  | .fault _ => false
  | .refused _ => false

/-- The step is refused with this reason. -/
def refuses (s : State) (r : Refusal) : Bool :=
  match step s with
  | .next _ => false
  | .fault _ => false
  | .refused r' => r' == r

/-- 2.5: an unbalanced tie at Negative; the fallback of a byte outside the control set. -/
theorem test_encode_unbalanced_tie : answers (before .positive 0x000001#22) .positive 0x19D4#13 = true := by
  decide +kernel
theorem test_encode_fallback : answers (before .negative 0x010041#22) .negative 0x19DA#13 = true := by decide +kernel

/-- 2.6: a mismatched comma; a control symbol at Negative. -/
theorem test_decode_mismatched_comma : answers (before .negative 0x0600FA#22) .negative 0x14BC#13 = true := by
  decide +kernel
theorem test_decode_control : answers (before .positive 0x0403A8#22) .positive 0x1CF7#13 = true := by decide +kernel

/-- 2.4: the comparison is on all sixteen bits. -/
theorem test_iscomma_high_bit : answers (before .positive 0x088305#22) .positive 0x1000#13 = true := by decide +kernel
theorem test_iscomma_comma : answers (before .negative 0x0800FA#22) .negative 0x1001#13 = true := by decide +kernel

/-- 2.2: a tie with the ones in the high four bits; a balanced tie is retained. -/
theorem test_after_high_tie : answers (before .negative 0x0C03C1#22) .negative 0x1800#13 = true := by decide +kernel
theorem test_after_retained : answers (before .positive 0x0C0274#22) .positive 0x1000#13 = true := by decide +kernel

/-- 2.3. -/
theorem test_flip : answers (before .positive 0x120000#22) .positive 0x1000#13 = true := by decide +kernel
theorem test_withd_mask : answers (before .positive 0x140000#22) .positive 0x13FF#13 = true := by decide +kernel

/-- 2.7: the boundary of the range. -/
theorem test_symchk_3ff : answers (before .negative 0x1803FF#22) .negative 0x13FF#13 = true := by decide +kernel
theorem test_symchk_400 : answers (before .positive 0x180400#22) .positive 0x0000#13 = true := by decide +kernel
theorem test_symraw_305 : answers (before .positive 0x1C0305#22) .positive 0x1305#13 = true := by decide +kernel
theorem test_symraw_400 : refuses (before .positive 0x1C0400#22) .symrawOutOfRange = true := by decide +kernel

/-- 2.8: refused, not answered. -/
theorem test_reserved_op_refused : refuses (before .positive 0x2C0000#22) (.reservedOp 11#4) = true := by
  decide +kernel

/-- 2.9 and program P3: `ctx.rd` written on acceptance, held on rejection while `rd_out` reads 0. -/
theorem test_txstep_comma : answers (before .positive 0x2100BC#22) .negative 0x1305#13 = true := by decide +kernel
theorem test_rxstep_comma : answers (before .negative 0x2400FA#22) .positive 0x1CBC#13 = true := by decide +kernel
theorem test_rxstep_held : answers (before .positive 0x24001F#22) .positive 0x0000#13 = true := by decide +kernel
theorem test_rdset : answers (before .negative 0x2A0000#22) .positive 0x1800#13 = true := by decide +kernel

/-! ### Tables (2.1), the aliasing of R107, the commas the block does not know (R86) -/

theorem test_table_lookups :
    chip.encPos 0x4A#8 = 0x155#10 ∧ chip.encPos 0xFF#8 = 0x14E#10 ∧ decPos chip 0x2AA#10 = some 0xB5#8 ∧
    decPos chip 0x305#10 = none ∧ ctrlByByte chip 0xFE#8 = some 0x217#10 ∧ ctrlByByte chip 0x41#8 = none ∧
    ctrlBySym chip 0x30B#10 = some 0x1C#8 ∧ ctrlBySym chip 0x18B#10 = none ∧
    resolvePositive chip 0xBC#8 false = 0x0EA#10 := by decide +kernel

theorem test_wrong_disparity_aliasing :
    decodeSymbol chip 0x02AA#16 .positive = some (0xB5#8, false, .positive) ∧
    decodeSymbol chip 0x02AA#16 .negative = some (0x4A#8, false, .negative) := by decide +kernel

theorem test_k28_1_is_no_comma :
    isComma 0x0306#16 = false ∧ decodeSymbol chip 0x0306#16 .positive = some (0x3C#8, true, .negative) := by
  decide +kernel

/-! ### Reset, the host's words, pseudo-operations -/

/-- From reset nothing runs until the caller issues a request; a word issued is the one that runs. -/
theorem test_reset_idle : step State.reset = .next State.reset := rfl
theorem test_fetch_word : State.reset.withFetchWord 24 0x2A0000 = before .negative 0x2A0000#22 := rfl
theorem test_context_reset : step ⟨.positive, [.resetContext], []⟩ = .next ⟨.negative, [], []⟩ := rfl

/-- R55: the words of programs P1 and P6. -/
theorem test_pseudo_operations :
    encodeRequest (txcomma chip) = 0x2100BC#22 ∧ encodeRequest (txd 0x01#8) = 0x200001#22 ∧
    encodeRequest (txk 0xFB#8) = 0x2100FB#22 ∧ encodeRequest (enck 0x41#8 .positive) = 0x030041#22 ∧
    encodeRequest (encd 0xBC#8 .negative) = 0x0000BC#22 := by decide

/-- The textual form: the example `TXSTEP 0x00, D -> (0x18B, P)` of 30_encoding.md, in decimal (log 10), and `K28.5`. -/
theorem test_text_form :
    lineText (.txstep false 0x00#8) (Response.ofSymbol (0x18B#10, .positive)) = "TXSTEP 0, D -> (395, P)" ∧
    codePointText 0xBC#8 true = "K28.5" := by decide +kernel

/-- R43, R44: the packed layouts. -/
theorem test_packed_records :
    packDataWord ⟨0xBC#8, true, .positive⟩ = 0x3BC#10 ∧ packWireSymbol ⟨0x0FA#10, .positive⟩ = 0x4FA#11 := by decide

/-! ### Witnesses: the hypotheses of the statements can be met -/

/-- Configurations that meet R8, and each of W1 to W8: `chip` (used by every statement with such a hypothesis). -/
theorem witness_well_formed_configuration :
    chip.WellFormed ∧ chip.W1 ∧ chip.W2 ∧ chip.W3 ∧ chip.W4 ∧ chip.W5 ∧ chip.W6 ∧ chip.W7 ∧ chip.W8 :=
  ⟨chip_wellFormed, chip_wellFormed.w1, chip_wellFormed.w2, chip_wellFormed.w3, chip_wellFormed.w4, chip_wellFormed.w5,
    chip_wellFormed.w6, chip_wellFormed.w7, chip_wellFormed.w8⟩

/-- RequestWordHasOneMeaning, DecoderFollowsOpcodeTable, OperationSelectCodes. -/
theorem witness_words :
    decodeRequest 0x120000#22 = .ok (.flip .positive) ∧
    (∃ r ∈ opcodeTable, r.holds 0x120000#22 = true) ∧ 11 ≤ (ReqWord.op 0x2C0000#22).toNat := by decide

/-- ResponseWordLayout, OperationSelectCodes, FailureChangesNothing, OnlyDecodersAndCheckFail: an operation that answers
`none`. -/
theorem witness_failure_answered : ∃ t r, exec (.symchk 0x0400#16) State.reset = .next t ∧
    t.responses = State.reset.responses ++ [r] ∧ r.valid = false :=
  ⟨_, _, rfl, rfl, rfl⟩

/-- The failing operations of `execWith`, one of each kind of conclusion of OnlyDecodersAndCheckFail. -/
theorem witness_failures_with (c : Config) :
    (∃ t r, execWith c (.decode .positive 0x0400#16) State.reset = .next t ∧
      t.responses = State.reset.responses ++ [r] ∧ r.valid = false) ∧
    (∃ t r, execWith c (.rxstep 0x0000#16) State.reset = .next t ∧
      t.responses = State.reset.responses ++ [r] ∧ r.valid = false) ∧
    (∃ t r, execWith c (.symchk 0x0400#16) State.reset = .next t ∧
      t.responses = State.reset.responses ++ [r] ∧ r.valid = false) :=
  ⟨⟨_, _, rfl, rfl, rfl⟩, ⟨_, _, rfl, rfl, rfl⟩, ⟨_, _, rfl, rfl, rfl⟩⟩

/-- MeaninglessRequestsRefused: each kind of meaningless request, and one with a meaning, at the boundaries. -/
theorem witness_meaningless_requests :
    MeaninglessRequest 0x2C0000#22 ∧ MeaninglessRequest 0x0001BC#22 ∧ MeaninglessRequest 0x1C0400#22 ∧
    ¬ MeaninglessRequest 0x1C03FF#22 ∧ ¬ MeaninglessRequest 0x2A0000#22 := by
  simp only [MeaninglessRequest]
  decide

/-- StepRunsDecodedOperation, MeaninglessRequestsRefused, WellIssuedRunsNeverStop. -/
theorem witness_issued :
    (before .positive 0x120000#22).inputs = .request 0x120000#22 :: [] ∧
    decodeRequest 0x120000#22 = .ok (.flip .positive) ∧ State.reset.inputs = [] ∧
    (before .positive 0x120000#22).WellIssued := by
  refine ⟨rfl, by decide, rfl, fun w h => ?_⟩
  simp only [before, List.mem_singleton, Input.request.injEq] at h
  subst h
  simp only [MeaninglessRequest]
  decide

/-- ContextResetLoadsRdInit. -/
theorem witness_context_reset : (⟨.positive, [.resetContext], []⟩ : State).inputs = .resetContext :: [] := rfl

/-- WellFormedOperationsComplete, CoreOperationsArePure, ResultsDependOnRdOnly. -/
theorem witness_well_formed_operations :
    (Instr.symraw 0x03FF#16).wellFormed = true ∧ (Instr.symraw 0x03FF#16).isStream = false ∧
    (before .positive 0x1C03FF#22).rd = .positive := by decide

/-- StepKeepsResponsesLawful: a state with a response and a step from it. -/
theorem witness_lawful_step :
    (⟨.negative, [.request 0x2A0000#22], [Response.absent]⟩ : State).ResponsesLawful ∧
    ∃ t, step ⟨.negative, [.request 0x2A0000#22], [Response.absent]⟩ = .next t := by
  refine ⟨fun r hr _ => ?_, ⟨_, rfl⟩⟩
  simpa using hr

/-- DifferentStreamsCommute and InterleavingGivesEachStreamItsOwnRun: two streams that both step. -/
theorem witness_two_streams (c : Config) :
    ∃ (m a b : Streams 2), (0 : Fin 2) ≠ 1 ∧ stepStream c 0 m = .next a ∧ stepStream c 1 a = .next b ∧
      runStreams c [0, 1] m = .next b :=
  ⟨#v[before .positive 0x280000#22, before .negative 0x2A0000#22], _, _, by decide, rfl, rfl, rfl⟩

/-- DecPosIsInverseOfEncPos: an entry of the control table. ControlBytesRoundTrip, ControlByteAsDataDiffers: a control
byte. ControlFlagFallsBackToData, DecodedControlFlag: a byte that is none. -/
theorem witness_control_bytes :
    (0xBC#8, 0x305#10) ∈ chip.ctrlTable ∧ 0xBC#8 ∈ chip.controlBytes ∧ 0x41#8 ∉ chip.controlBytes := by decide

/-- AfterAnswersNextDisparity, ClassesOfCodesUnderAfter, NegativeTieBranchIsDead: each class, and both outcomes. -/
theorem witness_classes :
    5 < popcount 0x0FA#10 ∧ popcount 0x305#10 < 5 ∧
    (popcount 0x2AA#10 = 5 ∧ popcount (sixPart 0x2AA#10) = 3) ∧
    (popcount 0x1D4#10 = 5 ∧ popcount (sixPart 0x1D4#10) ≠ 3) ∧
    afterSymbol .negative 0x2AA#10 ≠ afterSymbol .positive 0x2AA#10 ∧
    ¬ (popcount (sixPart 0x2AA#10) > 3 ∨ popcount (fourPart 0x2AA#10) > 2) ∧
    afterSymbol .negative 0x2AA#10 = .negative := by decide

/-- StreamTransitionsAreAfterOrFlip, CommaDoesNotResynchronise: a comma, an accepted symbol, a rejected one. -/
theorem witness_received_symbols :
    isComma 0x00FA#16 = true ∧
    (isComma 0x018B#16 = false ∧ (Response.ofDataWord (decodeSymbol chip 0x018B#16 .positive)).valid = true) ∧
    (Response.ofDataWord (decodeSymbol chip 0x0400#16 .positive)).valid = false ∧
    (before .positive 0#22).rd ≠ (before .negative 0#22).rd := by decide +kernel

/-- CommaDoesNotResynchronise: both receivers complete. -/
theorem witness_comma_received (c : Config) :
    (∃ t, execWith c (.rxstep 0x00FA#16) (before .positive 0#22) = .next t) ∧
    (∃ t, execWith c (.rxstep 0x00FA#16) (before .negative 0#22) = .next t) := ⟨⟨_, rfl⟩, ⟨_, rfl⟩⟩

/-- IsCommaAnswersComparison, SymrawAnswersOrIsRefused: both sides of the range. -/
theorem witness_range : 0x3FF < (0x0400#16).toNat ∧ (0x03FF#16).toNat ≤ 0x3FF := by decide

/-- DecodedNextDisparityIsAfter, DecodedControlFlag, RxstepDecodesAndHoldsOnRejection. -/
theorem witness_decoded :
    isComma 0x018B#16 = false ∧ decodeSymbol chip 0x018B#16 .positive = some (0x00#8, false, .positive) ∧
    decodeSymbol chip 0x0400#16 .positive = none := by decide +kernel

/-- TxstepEncodesAndWritesRd. -/
theorem witness_rd_negative : (before .negative 0x2100BC#22).rd = .negative := rfl

/-- ContextFormIsThreadedForm: inputs of both forms, and a list of symbols that is accepted. -/
theorem witness_threaded :
    (⟨.positive, [.request (encodeRequest (.rdset .negative)), .request (encodeRequest (.txstep true 0xBC#8))], []⟩ :
      State).inputs =
      (Instr.rdset .negative :: [(0xBC#8, true)].map (fun w : Byte × Bool => Instr.txstep w.2 w.1)).map
        (fun i => Input.request (encodeRequest i)) ∧
    (⟨.positive, [.request (encodeRequest (.rdset .negative)), .request (encodeRequest (.rxstep 0x00FA#16))], []⟩ :
      State).inputs =
      (Instr.rdset .negative :: [0x00FA#16].map Instr.rxstep).map (fun i => Input.request (encodeRequest i)) ∧
    threadDecode chip .negative [0x00FA#16] = some ([(0xBC#8, true, .positive)], .positive) := by decide +kernel

/-- LoopbackDeliversTheStream: two contexts that start equal. -/
theorem witness_link : (before .negative 0#22).rd = State.reset.rd := rfl

end Sys2Proof.Tests
end

section
/-!
PROOFS, family 30_encoding.md. The normal form of an operation (one `ctx.rd` write and one delivered response, as
functions of the operands and of `ctx.rd`), the layouts of the two words, and the response row of R49.
-/

namespace Sys2Proof.Machine

open Sys2Proof

/-! ### The normal form of an operation -/

/-- What an operation leaves in `ctx.rd`, from the value it finds there (R15, R119 to R121). -/
def nextRd (c : Config) : Instr → Disparity → Disparity
  | .txstep k b, d => (encodeByte c b k d).2
  | .rxstep sym, d => rdAfterReceive d (decodeSymbol c sym d)
  | .rdset d', _ => d'
  | _, d => d

/-- The response an operation delivers, from the value of `ctx.rd` it finds (R49). -/
def answer (c : Config) : Instr → Disparity → Response
  | .encode d k b, _ => Response.ofSymbol (encodeByte c b k d)
  | .decode d sym, _ => Response.ofDataWord (decodeSymbol c sym d)
  | .iscomma sym, _ => Response.ofBool (isComma sym)
  | .after d v, _ => Response.ofDisparity (afterSymbol d v)
  | .flip d, _ => Response.ofDisparity (flipDisparity d)
  | .withd d v, _ => Response.ofCode (withDisparity d v)
  | .symchk sym, _ => Response.ofCode? (symbolChecked sym).toOption
  | .symraw sym, _ => Response.ofCode (codeOf sym)
  | .txstep k b, d => Response.ofSymbol (encodeByte c b k d)
  | .rxstep sym, d => Response.ofDataWord (decodeSymbol c sym d)
  | .rdset d', _ => Response.ofDisparity d'

/-- An operation within its precondition writes `nextRd` and delivers `answer`; outside it, it is refused (R114). -/
theorem execWith_eq (c : Config) (i : Instr) (s : State) :
    execWith c i s =
      if i.wellFormed then .next ((s.setRd (nextRd c i s.rd)).deliver (answer c i s.rd))
      else .refused .symrawOutOfRange := by
  cases i <;> rfl

theorem execWith_next_iff {c : Config} {i : Instr} {s t : State} :
    execWith c i s = .next t ↔
      i.wellFormed = true ∧ t = (s.setRd (nextRd c i s.rd)).deliver (answer c i s.rd) := by
  rw [execWith_eq]
  split
  case isTrue hi => simp [hi, eq_comm (a := t)]
  case isFalse hi => simp [hi]

theorem exec_next_iff {i : Instr} {s t : State} :
    exec i s = .next t ↔
      i.wellFormed = true ∧ t = (s.setRd (nextRd chip i s.rd)).deliver (answer chip i s.rd) := by
  rw [exec_eq_execWith, execWith_next_iff]

/-- Only the stream operations write `ctx.rd` (R15). -/
theorem nextRd_of_not_isStream {c : Config} {i : Instr} (h : i.isStream = false) (d : Disparity) :
    nextRd c i d = d := by
  cases i with
  | txstep | rxstep | rdset => cases h
  | _ => rfl

/-- The stream operations are those with select code 8 or more (R48). -/
theorem isStream_eq_decide_opcode (i : Instr) : i.isStream = decide (8 ≤ i.opcode.toNat) := by
  cases i <;> rfl

/-- No operation with a select code below 8 changes `ctx.rd` (R48). -/
theorem exec_rd_of_opcode_lt {i : Instr} {s t : State} (hop : i.opcode.toNat < 8) (h : exec i s = .next t) :
    t.rd = s.rd := by
  have hstream : i.isStream = false := by simp [isStream_eq_decide_opcode, hop]
  obtain ⟨-, rfl⟩ := exec_next_iff.mp h
  exact nextRd_of_not_isStream hstream s.rd

/-- An operation within its precondition changes `ctx.rd` in a state where `nextRd` is another disparity. -/
theorem exists_exec_rd_ne {i : Instr} {s : State} (hi : i.wellFormed = true) (h : nextRd chip i s.rd ≠ s.rd) :
    ∃ t, exec i s = .next t ∧ t.rd ≠ s.rd :=
  ⟨_, exec_next_iff.mpr ⟨hi, rfl⟩, h⟩

/-! ### Fields side by side (R46, R47) -/

/-- Two bit vectors side by side, the second in the low bits, as a number. -/
theorem toNat_append_eq_add {m n : Nat} (x : BitVec m) (y : BitVec n) :
    (x ++ y).toNat = x.toNat * 2 ^ n + y.toNat := by
  rw [BitVec.toNat_append, ← Nat.shiftLeft_add_eq_or_of_lt y.isLt, Nat.shiftLeft_eq]

theorem toNat_packRequest (op : BitVec 4) (rd k : BitVec 1) (data : BitVec 16) :
    (packRequest op rd k data).toNat = op.toNat * 2 ^ 18 + rd.toNat * 2 ^ 17 + k.toNat * 2 ^ 16 + data.toNat := by
  simp only [packRequest, toNat_append_eq_add]
  omega

theorem flagBit_eq_one_iff (k : Bool) : flagBit k = 1#1 ↔ k = true := by
  cases k <;> decide

theorem toNat_flagBit (k : Bool) : (flagBit k).toNat = if k then 1 else 0 := by
  cases k <;> rfl

theorem Response.toNat_word (r : Response) :
    r.word.toNat =
      (if r.valid then 1 else 0) * 2 ^ 12 + r.rdOut.toNat * 2 ^ 11 + r.kOut.toNat * 2 ^ 10 + r.dataOut.toNat := by
  simp only [Response.word, toNat_append_eq_add, toNat_flagBit]
  omega

/-- A select code of 11 to 15 selects no operation (R50 (a)). -/
theorem decodeRequest_reservedOp {w : ReqWord} (h : 11 ≤ (ReqWord.op w).toNat) :
    decodeRequest w = .error (.reservedOp (ReqWord.op w)) := by
  simp only [decodeRequest]
  split
  case h_12 => rfl
  all_goals omega

/-! ### The response row of an operation (R47, R49, R51) -/

/-- The response is zero in what the row of R49 does not define for the operation, and everywhere when it is `none`. -/
structure Response.FitsRow (r : Response) (i : Instr) : Prop where
  rdOut : i.definesRdOut = false → r.rdOut = 0#1
  kOut : i.definesKOut = false → r.kOut = 0#1
  dataOut : r.dataOut.toNat < 2 ^ i.dataOutWidth
  lawful : r.Lawful

section ResponseForms

variable {i : Instr}

/-- `none` fits the row of every operation: all its fields are 0 (R51). -/
theorem Response.absent_fitsRow : Response.absent.FitsRow i :=
  ⟨fun _ => rfl, fun _ => rfl, Nat.two_pow_pos _, fun _ => rfl⟩

theorem Response.ofSymbol_fitsRow (hrd : i.definesRdOut = true) (hw : i.dataOutWidth = 10) (x : Sym10 × Disparity) :
    (Response.ofSymbol x).FitsRow i where
  rdOut h := by simp [hrd] at h
  kOut _ := rfl
  dataOut := by rw [hw]; exact x.1.isLt
  lawful h := by simp at h

theorem Response.ofDataWord_fitsRow (hrd : i.definesRdOut = true) (hk : i.definesKOut = true)
    (hw : i.dataOutWidth = 8) (x : Option (Byte × Bool × Disparity)) : (Response.ofDataWord x).FitsRow i := by
  match x with
  | none => exact Response.absent_fitsRow
  | some (b, k, d) =>
    exact {
      rdOut := fun h => by simp [hrd] at h
      kOut := fun h => by simp [hk] at h
      dataOut := by
        rw [hw]
        exact (BitVec.toNat_setWidth_of_le (by decide)).trans_lt b.isLt
      lawful := fun h => by simp at h }

theorem Response.ofBool_fitsRow (hw : i.dataOutWidth = 1) (b : Bool) : (Response.ofBool b).FitsRow i where
  rdOut _ := rfl
  kOut _ := rfl
  dataOut := by
    rw [hw]
    exact (BitVec.toNat_setWidth_of_le (by decide)).trans_lt (BitVec.ofBool b).isLt
  lawful h := by simp at h

theorem Response.ofDisparity_fitsRow (hrd : i.definesRdOut = true) (d : Disparity) :
    (Response.ofDisparity d).FitsRow i where
  rdOut h := by simp [hrd] at h
  kOut _ := rfl
  dataOut := Nat.two_pow_pos _
  lawful h := by simp at h

theorem Response.ofCode_fitsRow (hw : i.dataOutWidth = 10) (v : Sym10) : (Response.ofCode v).FitsRow i where
  rdOut _ := rfl
  kOut _ := rfl
  dataOut := by rw [hw]; exact v.isLt
  lawful h := by simp at h

theorem Response.ofCode?_fitsRow (hw : i.dataOutWidth = 10) (x : Option Sym10) : (Response.ofCode? x).FitsRow i := by
  cases x with
  | none => exact Response.absent_fitsRow
  | some v => exact Response.ofCode_fitsRow hw v

end ResponseForms

/-- Every operation answers within its own row of R49, whatever the tables hold. -/
theorem answer_fitsRow (c : Config) (i : Instr) (d : Disparity) : (answer c i d).FitsRow i := by
  cases i with
  | encode | txstep => exact Response.ofSymbol_fitsRow rfl rfl _
  | decode | rxstep => exact Response.ofDataWord_fitsRow rfl rfl rfl _
  | iscomma => exact Response.ofBool_fitsRow rfl _
  | after | flip | rdset => exact Response.ofDisparity_fitsRow rfl _
  | withd | symraw => exact Response.ofCode_fitsRow rfl _
  | symchk => exact Response.ofCode?_fitsRow rfl _

/-! ### The obligations -/

/-- Settles O7: the layout is the word's appends read as a number, and the one response of the normal form fits its
operation's row. -/
theorem responseWordLayout : Obligations.ResponseWordLayout := by
  refine ⟨Response.toNat_word, fun i s t h => ?_⟩
  obtain ⟨-, rfl⟩ := exec_next_iff.mp h
  obtain ⟨hrd, hk, hdata, hlawful⟩ := answer_fitsRow chip i s.rd
  refine ⟨_, rfl, hrd, hk, hdata, fun hv => ?_⟩
  rw [hlawful hv]
  exact ⟨rfl, rfl, rfl⟩

/-- Settles O4: the layout is the word's appends read as a number, and a zero-extended operand keeps its value. -/
theorem requestWordLayout : Obligations.RequestWordLayout := by
  have hbyte : ∀ b : Byte, (b.setWidth 16).toNat = b.toNat := fun _ => BitVec.toNat_setWidth_of_le (by decide)
  have hcode : ∀ v : Sym10, (v.setWidth 16).toNat = v.toNat := fun _ => BitVec.toNat_setWidth_of_le (by decide)
  exact ⟨toNat_packRequest, fun _ => rfl, fun _ k b => ⟨rfl, flagBit_eq_one_iff k, hbyte b⟩,
    fun k b => ⟨flagBit_eq_one_iff k, hbyte b⟩, fun _ v => ⟨rfl, hcode v, rfl, hcode v⟩, fun _ _ => ⟨rfl, rfl⟩,
    fun _ => ⟨rfl, rfl, rfl, rfl⟩, fun _ => ⟨rfl, rfl⟩⟩

/-- Settles O5: the codes hold by definition; at Positive, sending the comma, receiving a comma and loading Negative
each change `ctx.rd`. -/
theorem operationSelectCodes : Obligations.OperationSelectCodes := by
  refine ⟨fun _ _ _ => rfl, fun _ _ => rfl, fun _ => rfl, fun _ _ => rfl, fun _ => rfl, fun _ _ => rfl, fun _ => rfl,
    fun _ => rfl, fun _ _ => rfl, fun _ => rfl, fun _ => rfl, fun _ => decodeRequest_reservedOp,
    fun _ _ _ => exec_rd_of_opcode_lt, ?_, ?_, ?_⟩
  · exact ⟨true, 0xBC#8, ⟨.positive, [], []⟩, exists_exec_rd_ne rfl (by decide)⟩
  · exact ⟨0x00FA#16, ⟨.positive, [], []⟩, exists_exec_rd_ne rfl (by decide)⟩
  · exact ⟨.negative, ⟨.positive, [], []⟩, exists_exec_rd_ne rfl (by decide)⟩

end Sys2Proof.Machine
end

section
/-!
PROOFS, family 41_disparity.md. The classes of codes under `AFTER` (R72), the bit counts of a complement in each
sub-block (R76), and what `AFTER` and `WITHD` put in their response.
-/

namespace Sys2Proof.Machine

open Sys2Proof

/-! ### `AFTER`, one lemma per class of codes (R72) -/

theorem afterSymbol_of_heavy (d : Disparity) {v : Sym10} (h : 5 < popcount v) : afterSymbol d v = .positive := by
  simp [afterSymbol, h]

theorem afterSymbol_of_light (d : Disparity) {v : Sym10} (h : popcount v < 5) : afterSymbol d v = .negative := by
  simp [afterSymbol, h, show ¬ 5 < popcount v by omega]

/-- Three ones in the low six bits of a tie leave two for the high four. -/
theorem popcount_fourPart_of_balancedTie {v : Sym10} (htie : popcount v = 5) (hsix : popcount (sixPart v) = 3) :
    popcount (fourPart v) = 2 := by
  have := popcount_split v
  omega

theorem afterSymbol_of_balancedTie (d : Disparity) {v : Sym10} (htie : popcount v = 5)
    (hsix : popcount (sixPart v) = 3) : afterSymbol d v = d := by
  simp [afterSymbol, htie, hsix, popcount_fourPart_of_balancedTie htie hsix]

/-- An unbalanced tie has too many ones in one of its sub-blocks, so it never reaches the Negative branch (R73). -/
theorem afterSymbol_of_unbalancedTie (d : Disparity) {v : Sym10} (htie : popcount v = 5)
    (hsix : popcount (sixPart v) ≠ 3) : afterSymbol d v = .positive := by
  have hover : popcount (sixPart v) > 3 ∨ popcount (fourPart v) > 2 := by
    have := popcount_split v
    omega
  simp [afterSymbol, htie, hover]

/-- Only a balanced tie makes `AFTER` depend on the disparity it starts from (R71). -/
theorem balancedTie_of_afterSymbol_ne {v : Sym10} (h : afterSymbol .negative v ≠ afterSymbol .positive v) :
    popcount v = 5 ∧ popcount (sixPart v) = 3 := by
  by_contra hclass
  apply h
  obtain hlight | htie | hheavy := lt_trichotomy (popcount v) 5
  · rw [afterSymbol_of_light _ hlight, afterSymbol_of_light _ hlight]
  · have hsix : popcount (sixPart v) ≠ 3 := fun hsix => hclass ⟨htie, hsix⟩
    rw [afterSymbol_of_unbalancedTie _ htie hsix, afterSymbol_of_unbalancedTie _ htie hsix]
  · rw [afterSymbol_of_heavy _ hheavy, afterSymbol_of_heavy _ hheavy]

/-! ### The complement (R76) -/

/-- A value and its complement share out the bits of their width. -/
theorem popcount_add_popcount_not {w : Nat} (v : BitVec w) : popcount v + popcount (~~~v) = w := by
  have hbits : popcount (~~~v) = (List.range w).countP (fun i => ¬ v.getLsbD i) :=
    List.countP_congr fun i hi => by simp [List.mem_range.mp hi]
  rw [hbits, popcount, ← List.length_eq_countP_add_countP, List.length_range]

theorem sixPart_complement10 (v : Sym10) : sixPart (complement10 v) = ~~~sixPart v := by
  refine BitVec.eq_of_getLsbD_eq fun i hi => ?_
  simp [sixPart, complement10, hi, show i < 10 by omega]

theorem popcount_sixPart_add_complement (v : Sym10) :
    popcount (sixPart v) + popcount (sixPart (complement10 v)) = 6 := by
  rw [sixPart_complement10, popcount_add_popcount_not]

theorem complement10_eq_sub (v : Sym10) : complement10 v = 0x3FF#10 - v :=
  (BitVec.allOnes_sub_eq_not v).symm

/-- A code and its complement add up to `0x3FF`, which is odd. -/
theorem complement10_ne_self (v : Sym10) : complement10 v ≠ v := by
  rw [complement10_eq_sub]
  bv_omega

theorem withDisparity_withDisparity (d : Disparity) (v : Sym10) : withDisparity d (withDisparity d v) = v := by
  cases d with
  | negative => exact complement10_complement10 v
  | positive => rfl

/-! ### The responses (R49) -/

theorem toBit_afterSymbol (d : Disparity) (v : Sym10) :
    (afterSymbol d v).toBit =
      if popcount v > 5 then 1#1
      else if popcount v < 5 then 0#1
      else if popcount (sixPart v) > 3 ∨ popcount (fourPart v) > 2 then 1#1
      else if popcount (sixPart v) < 3 ∨ popcount (fourPart v) < 2 then 0#1
      else d.toBit := by
  simp only [afterSymbol, apply_ite Disparity.toBit]
  rfl

/-! ### The obligations -/

/-- Settles O24: one lemma per class, and the sizes counted over the 1024 codes. -/
theorem classesOfCodesUnderAfter : Obligations.ClassesOfCodesUnderAfter := by
  refine ⟨fun d _ => afterSymbol_of_heavy d, fun d _ => afterSymbol_of_light d,
    fun d _ htie hsix => ⟨popcount_fourPart_of_balancedTie htie hsix, afterSymbol_of_balancedTie d htie hsix⟩,
    fun d _ => afterSymbol_of_unbalancedTie d, ?_, ?_, ?_, ?_, ?_, rfl, rfl⟩ <;> decide +kernel

/-- Settles O26: a code and its complement have ten ones together, six of them in the low six bits. -/
theorem lawsOfWithd : Obligations.LawsOfWithd := by
  refine ⟨withDisparity_withDisparity, fun v => ?_, complement10_ne_self, ⟨rfl, rfl⟩, fun v => ?_⟩
  all_goals
    have hall := popcount_add_complement v
    simp only [withDisparity_negative]
  · unfold Config.BalancedCount
    omega
  · have hsix := popcount_sixPart_add_complement v
    omega

/-- Settles O23: the response carries `AFTER`'s disparity as a bit, and only a balanced tie keeps the old one. -/
theorem afterAnswersNextDisparity : Obligations.AfterAnswersNextDisparity := by
  refine ⟨fun d v s => ?_, fun d v => (Laws.OpField.after d v).1,
    fun d => ⟨afterSymbol_of_light d (by decide), afterSymbol_of_heavy d (by decide)⟩, fun v h => ?_,
    afterSymbol_of_heavy _ (by decide), afterSymbol_of_light _ (by decide),
    afterSymbol_of_balancedTie _ (by decide) (by decide), afterSymbol_of_balancedTie _ (by decide) (by decide)⟩
  · have hexec : exec (.after d v) s = .next (s.deliver ⟨true, (afterSymbol d v).toBit, 0#1, 0#10⟩) := rfl
    rw [hexec, toBit_afterSymbol]
    rfl
  · obtain ⟨htie, hsix⟩ := balancedTie_of_afterSymbol_ne h
    exact ⟨htie, hsix, popcount_fourPart_of_balancedTie htie hsix⟩

/-- Settles O28: the ten-bit complement is the difference from `0x3FF`. -/
theorem withdAnswersAdaptedCode : Obligations.WithdAnswersAdaptedCode := by
  refine ⟨fun d v s => ?_, fun d v => (Laws.OpField.withd d v).1, fun v => ⟨rfl, complement10_eq_sub v⟩,
    rfl, rfl, rfl, rfl⟩
  cases d with
  | negative =>
    rw [← complement10_eq_sub]
    rfl
  | positive => rfl

/-- Settles O31: the table is evaluated row by row. -/
theorem afterWorkedValues : Obligations.AfterWorkedValues := by
  unfold Obligations.AfterWorkedValues
  decide

end Sys2Proof.Machine
end

section
/-!
PROOFS, family 42_comma.md. The detector as a comparison of numbers (R83), the two comma codes as complements of each
other (R42), and the table entry behind a comma that is sent (R87).
-/

namespace Sys2Proof.Machine

open Sys2Proof

/-! ### The detector (R83) -/

theorem isComma_iff (s : U16) : isComma s = true ↔ s = 0x00FA#16 ∨ s = 0x0305#16 := by
  simp only [isComma, Bool.or_eq_true, beq_iff_eq]
  rfl

/-- A comma is a code, so no raw symbol with a bit above bit 9 is one. -/
theorem isComma_eq_false_of_lt {s : U16} (h : 0x3FF < s.toNat) : isComma s = false := by
  rw [← Bool.not_eq_true, isComma_iff]
  rintro (rfl | rfl) <;> exact absurd h (by decide)

theorem boolOut_isComma (s : U16) :
    boolOut (isComma s) = if s = 0x00FA#16 ∨ s = 0x0305#16 then 1#10 else 0#10 := by
  rw [← if_congr (isComma_iff s) rfl rfl]
  cases isComma s <;> rfl

/-! ### The comma codes (R42) -/

/-- Each comma code is the complement of the other. -/
theorem isCommaCode_complement10 (v : Sym10) : Config.IsCommaCode (complement10 v) ↔ Config.IsCommaCode v := by
  have swap (w : Sym10) : complement10 v = w ↔ v = complement10 w :=
    Function.Involutive.eq_iff complement10_complement10
  rw [Config.IsCommaCode, swap, swap, or_comm]
  rfl

/-- Adapting a code to a disparity neither makes nor unmakes a comma. -/
theorem isCommaCode_withDisparity (d : Disparity) (v : Sym10) :
    Config.IsCommaCode (withDisparity d v) ↔ Config.IsCommaCode v := by
  cases d with
  | negative => exact isCommaCode_complement10 v
  | positive => rfl

/-! ### Which words resolve to a comma (R87) -/

/-- With distinct control bytes, a flagged control byte resolves to the symbol of its entry. -/
theorem resolvePositive_of_mem {c : Config} (h3 : c.W3) {b : Byte} {v : Sym10} (h : (b, v) ∈ c.ctrlTable) :
    resolvePositive c b true = v := by
  obtain ⟨-, hentry⟩ | ⟨hmiss, -⟩ := resolvePositive_cases c b true
  · exact congrArg Prod.snd (eq_of_nodup_map h3.1 hentry h rfl)
  · have hmem : b ∈ c.controlBytes := List.mem_map_of_mem h
    simp [hmem] at hmiss

/-- The data table holds no comma (W7), and only the comma byte's control entry does (W8). -/
theorem isCommaCode_resolvePositive_iff {c : Config} (hc : c.WellFormed) (b : Byte) (k : Bool) :
    Config.IsCommaCode (resolvePositive c b k) ↔ b = c.commaByte ∧ k = true := by
  constructor
  · intro hcomma
    obtain ⟨hk, hentry⟩ | ⟨-, hdata⟩ := resolvePositive_cases c b k
    · exact ⟨by_contra fun hb => (hc.w8 _ hentry).1 hb hcomma, hk⟩
    · exact absurd (hdata ▸ hcomma) (hc.w7 b)
  · rintro ⟨rfl, rfl⟩
    exact .inl (resolvePositive_of_mem hc.w3 hc.w6)

/-! ### The obligations -/

/-- Settles O34: the sent code is a comma exactly when the resolved symbol is, since `WITHD` keeps the pair of commas. -/
theorem onlyCommaByteIsSentAsComma : Obligations.OnlyCommaByteIsSentAsComma := by
  intro c hc
  have hpos := resolvePositive_of_mem hc.w3 hc.w6
  refine ⟨hc.w6, rfl, ?_, ?_, fun b k d => ?_⟩
  · exact congrArg (withDisparity .negative) hpos
  · exact congrArg (withDisparity .positive) hpos
  · calc isComma (rawOf (encodeByte c b k d).1) = true
      _ ↔ Config.IsCommaCode (withDisparity d (resolvePositive c b k)) := isComma_rawOf _
      _ ↔ Config.IsCommaCode (resolvePositive c b k) := isCommaCode_withDisparity d _
      _ ↔ b = c.commaByte ∧ k = true := isCommaCode_resolvePositive_iff hc b k

/-- Settles O32: the delivered bit is the detector's answer. -/
theorem isCommaAnswersComparison : Obligations.IsCommaAnswersComparison := by
  refine ⟨fun sym s => ?_, fun sym => (Laws.OpField.iscomma sym).1, fun _ => isComma_eq_false_of_lt,
    isComma_eq_false_of_lt (by decide), isComma_eq_false_of_lt (by decide), rfl, rfl, rfl⟩
  have hexec : exec (.iscomma sym) s = .next (s.deliver ⟨true, 0#1, 0#1, boolOut (isComma sym)⟩) := rfl
  rw [hexec, boolOut_isComma]
  rfl

/-- Settles O33: the two values are the comma codes, and `ISCOMMA` has no configuration to read. -/
theorem exactlyTwoCommasWhateverTheTables : Obligations.ExactlyTwoCommasWhateverTheTables :=
  ⟨⟨0x00FA#16, 0x0305#16, by decide, isComma_iff⟩, fun _ _ _ _ => rfl⟩

end Sys2Proof.Machine
end

section
/-!
PROOFS, family 43_encoder.md. What a byte resolves to with and without a control entry (R63), and how the decoder
answers a data symbol adapted to its disparity (R92, R95).
-/

namespace Sys2Proof.Machine

open Sys2Proof

/-! ### The resolved symbol (R63) -/

/-- The silent fallback: without a control entry the flag is not looked at. -/
theorem resolvePositive_of_notMem {c : Config} {b : Byte} (h : b ∉ c.controlBytes) (k : Bool) :
    resolvePositive c b k = c.encPos b := by
  obtain ⟨-, hentry⟩ | ⟨-, hdata⟩ := resolvePositive_cases c b k
  · exact absurd (List.mem_map_of_mem hentry) h
  · exact hdata

/-- With the flag a control byte resolves to the symbol of one of its entries. -/
theorem mem_ctrlTable_resolvePositive {c : Config} {b : Byte} (h : b ∈ c.controlBytes) :
    (b, resolvePositive c b true) ∈ c.ctrlTable := by
  obtain ⟨-, hentry⟩ | ⟨hmiss, -⟩ := resolvePositive_cases c b true
  · exact hentry
  · simp [h] at hmiss

/-! ### Adapted symbols (R75, R76) -/

theorem withDisparity_injective (d : Disparity) : Function.Injective (withDisparity d) :=
  Function.Involutive.injective (withDisparity_withDisparity d)

/-- Adapting a code to a disparity keeps its bit count in the band 4 to 6. -/
theorem balancedCount_withDisparity {v : Sym10} (h : Config.BalancedCount v) (d : Disparity) :
    Config.BalancedCount (withDisparity d v) := by
  cases d with
  | negative =>
    have hall := popcount_add_complement v
    simp only [Config.BalancedCount, withDisparity_negative] at h ⊢
    omega
  | positive => exact h

/-! ### Data symbols at the decoder (R96) -/

/-- Under W4 the scan of the control table misses every data symbol. -/
theorem ctrlBySym_encPos {c : Config} (h4 : c.W4) (b : Byte) : ctrlBySym c (c.encPos b) = none := by
  refine scanBySym_none_iff.mpr fun hmem => ?_
  obtain ⟨p, hp, hsym⟩ := List.mem_map.mp hmem
  exact h4 p hp b hsym

/-- A data symbol, adapted to the disparity it is received at, is looked up as the table value it came from. -/
theorem lookupSymbol_withDisparity_encPos {c : Config} (h2 : c.W2) (h4 : c.W4) (b : Byte) (d : Disparity) :
    lookupSymbol c (withDisparity d (c.encPos b)) d =
      .ok (b, false, afterSymbol d (withDisparity d (c.encPos b))) := by
  simp [lookupSymbol, withDisparity_withDisparity, ctrlBySym_encPos h4, decPos_encPos h2]

/-- Under R8 a data symbol passes the comma (W7) and band (W5) checks and decodes to its byte, with the flag false. -/
theorem decodeSymbol_withDisparity_encPos {c : Config} (hc : c.WellFormed) (b : Byte) (d : Disparity) :
    decodeSymbol c (rawOf (withDisparity d (c.encPos b))) d =
      some (b, false, afterSymbol d (withDisparity d (c.encPos b))) := by
  have hcomma : ¬ Config.IsCommaCode (withDisparity d (c.encPos b)) :=
    mt (isCommaCode_withDisparity d _).mp (hc.w7 b)
  rw [decodeSymbol_rawOf hcomma (balancedCount_withDisparity (hc.w5 b) d),
    lookupSymbol_withDisparity_encPos hc.w2 hc.w4]
  rfl

/-! ### The obligations -/

/-- Settles O37: with or without the flag the byte resolves to its data symbol, which decodes with the flag false. -/
theorem controlFlagFallsBackToData : Obligations.ControlFlagFallsBackToData := by
  refine ⟨fun c b d hb => ?_, fun c b d hc hb => ?_, rfl, rfl, by decide +kernel⟩
  · simp only [encodeByte, resolvePositive_of_notMem hb]
  · have hsent : (encodeByte c b true d).1 = withDisparity d (c.encPos b) :=
      congrArg (withDisparity d) (resolvePositive_of_notMem hb true)
    exact ⟨_, hsent ▸ decodeSymbol_withDisparity_encPos hc b d⟩

/-- Settles O39: `WITHD` is injective, and no control symbol is a data symbol (W4). -/
theorem controlByteAsDataDiffers : Obligations.ControlByteAsDataDiffers := by
  refine ⟨fun c hc b hb d => ⟨rfl, fun hsame => ?_⟩, rfl, rfl⟩
  have hsym : c.encPos b = resolvePositive c b true := withDisparity_injective d hsame
  exact hc.w4 _ (mem_ctrlTable_resolvePositive hb) b hsym.symm

end Sys2Proof.Machine
end

section
/-!
PROOFS, family 44_decoder.md. How the decoder answers a comma, a control symbol and a sent code adapted to its
disparity (R96, R109, R110); a complement is the same code adapted to the opposite disparity (R111).
-/

namespace Sys2Proof.Machine

open Sys2Proof

/-! ### Commas (R96, R106) -/

/-- The comma path looks at no table and at no polarity. -/
theorem decodeSymbol_of_isComma {s : U16} (h : isComma s = true) (c : Config) (d : Disparity) :
    decodeSymbol c s d = some (c.commaByte, true, flipDisparity d) := by
  simp [decodeSymbol, decodeChecked, h, Except.toOption]

/-- A comma adapted to its disparity is light at Positive and heavy at Negative, so `AFTER` flips (R94). -/
theorem afterSymbol_withDisparity_commaPos (d : Disparity) :
    afterSymbol d (withDisparity d commaPos) = flipDisparity d := by
  cases d with
  | negative => exact afterSymbol_of_heavy _ (by decide)
  | positive => exact afterSymbol_of_light _ (by decide)

/-! ### Sent codes at the decoder (R109, R110) -/

/-- A sent code whose table symbol is no comma and has a legal bit count is looked up. -/
theorem decodeSymbol_encodeByte {c : Config} {b : Byte} {k : Bool}
    (hcomma : ¬ Config.IsCommaCode (resolvePositive c b k)) (hband : Config.BalancedCount (resolvePositive c b k))
    (d : Disparity) :
    decodeSymbol c (rawOf (encodeByte c b k d).1) d =
      (lookupSymbol c (withDisparity d (resolvePositive c b k)) d).toOption :=
  decodeSymbol_rawOf (mt (isCommaCode_withDisparity d _).mp hcomma) (balancedCount_withDisparity hband d)

/-- With distinct control symbols, the scan by symbol answers the byte of the symbol's entry (R62). -/
theorem ctrlBySym_of_mem {c : Config} (h3 : c.W3) {b : Byte} {v : Sym10} (h : (b, v) ∈ c.ctrlTable) :
    ctrlBySym c v = some b := by
  cases hscan : ctrlBySym c v with
  | none => exact absurd (List.mem_map_of_mem h) (scanBySym_none_iff.mp hscan)
  | some b' => exact congrArg (some ·.1) (eq_of_nodup_map h3.2 (mem_of_scanBySym hscan) h rfl)

/-- A control symbol, adapted to the disparity it is received at, is looked up as the entry it came from. -/
theorem lookupSymbol_withDisparity_of_mem {c : Config} (h3 : c.W3) {b : Byte} {v : Sym10} (h : (b, v) ∈ c.ctrlTable)
    (d : Disparity) :
    lookupSymbol c (withDisparity d v) d = .ok (b, true, afterSymbol d (withDisparity d v)) := by
  simp [lookupSymbol, withDisparity_withDisparity, ctrlBySym_of_mem h3 h]

/-- A control table entry is the comma's (W3, W6, W8) or holds no comma. -/
theorem eq_commaEntry_or_not_isCommaCode {c : Config} (h3 : c.W3) (h6 : c.W6) (h8 : c.W8) {p : Byte × Sym10}
    (hp : p ∈ c.ctrlTable) : p = (c.commaByte, commaPos) ∨ ¬ Config.IsCommaCode p.2 := by
  by_cases hbyte : p.1 = c.commaByte
  · exact .inl (eq_of_nodup_map h3.1 hp h6 hbyte)
  · exact .inr ((h8 p hp).1 hbyte)

/-- The comma byte comes back through the comma path, whose flip is what the encoder's `AFTER` gave; every other control
byte through the lookup. -/
theorem decodeSymbol_encodeByte_control {c : Config} (h3 : c.W3) (h6 : c.W6) (h8 : c.W8) {p : Byte × Sym10}
    (hp : p ∈ c.ctrlTable) (d : Disparity) :
    decodeSymbol c (rawOf (encodeByte c p.1 true d).1) d = some (p.1, true, (encodeByte c p.1 true d).2) := by
  have hsym : resolvePositive c p.1 true = p.2 := resolvePositive_of_mem h3 hp
  obtain rfl | hcomma := eq_commaEntry_or_not_isCommaCode h3 h6 h8 hp
  · have hsent : isComma (rawOf (withDisparity d commaPos)) = true :=
      (isComma_rawOf _).mpr ((isCommaCode_withDisparity d _).mpr (.inl rfl))
    simp only [encodeByte, hsym, decodeSymbol_of_isComma hsent, afterSymbol_withDisparity_commaPos]
  · rw [decodeSymbol_encodeByte (hsym ▸ hcomma) (hsym ▸ (h8 p hp).2), hsym,
      lookupSymbol_withDisparity_of_mem h3 hp, ← hsym]
    rfl

/-! ### The complement (R111) -/

/-- Complementing a code adapted to one disparity adapts it to the other. -/
theorem complement10_withDisparity (d : Disparity) (v : Sym10) :
    complement10 (withDisparity d v) = withDisparity (flipDisparity d) v := by
  cases d with
  | negative => exact complement10_complement10 v
  | positive => rfl

/-! ### The obligations -/

/-- Settles O44: a data symbol is no comma (W7) and in the band (W5), and its lookup misses the control table (W4) and
finds its one byte (W2). -/
theorem dataBytesRoundTrip : Obligations.DataBytesRoundTrip := by
  intro c _ h2 _ h4 h5 _ h7 b d
  calc decodeSymbol c (rawOf (encodeByte c b false d).1) d
    _ = (lookupSymbol c (withDisparity d (c.encPos b)) d).toOption :=
      decodeSymbol_encodeByte (k := false) (h7 b) (h5 b) d
    _ = some (b, false, (encodeByte c b false d).2) := by
      rw [lookupSymbol_withDisparity_encPos h2 h4]
      rfl

/-- Settles O45: the default tables meet R8. -/
theorem controlBytesRoundTrip : Obligations.ControlBytesRoundTrip :=
  ⟨fun _ h3 _ h6 h8 _ => decodeSymbol_encodeByte_control h3 h6 h8,
    fun _ => decodeSymbol_encodeByte_control chip_wellFormed.w3 chip_wellFormed.w6 chip_wellFormed.w8⟩

/-- Settles O46: the complement is the data symbol sent at the opposite disparity. The default symbol of 0x01 at
Negative is an unbalanced tie, and so is its complement: `AFTER` answers Positive for both. -/
theorem complementDecodesAtOppositeDisparity : Obligations.ComplementDecodesAtOppositeDisparity := by
  refine ⟨fun c hc b d => ?_, chip, chip_wellFormed, 0x01#8, .negative, by decide⟩
  have hsent : complement10 (encodeByte c b false d).1 = withDisparity (flipDisparity d) (c.encPos b) :=
    complement10_withDisparity d (c.encPos b)
  rw [hsent]
  exact decodeSymbol_withDisparity_encPos hc b (flipDisparity d)

/-- Settles O47: one case for each way a symbol is accepted; the lost flag is the fallback of R92. -/
theorem decodedControlFlag : Obligations.DecodedControlFlag := by
  obtain ⟨-, hfallback, -⟩ := controlFlagFallsBackToData
  refine ⟨fun c s d b k d' h => ?_, fun c hc b hb d => hfallback c b d hc hb⟩
  obtain ⟨hcomma, hr⟩ | ⟨hcomma, -, -, -, ⟨kb, hctrl, hr⟩ | ⟨db, hctrl, -, hr⟩⟩ := decodeSymbol_some h
  all_goals cases hr
  · simp [hcomma]
  · simp [hctrl]
  · simp [hcomma, hctrl]

/-- Settles O43: the comma path answers both codes; 0x0FA is heavy and 0x305 light, so `AFTER` answers the same at
either disparity. -/
theorem commaPathChecksNoPolarity : Obligations.CommaPathChecksNoPolarity := by
  intro c
  have hneg : isComma 0x00FA#16 = true := by decide
  have hpos : isComma 0x0305#16 = true := by decide
  have hheavy (d : Disparity) : afterSymbol d 0x0FA#10 = .positive := afterSymbol_of_heavy d (by decide)
  have hlight (d : Disparity) : afterSymbol d 0x305#10 = .negative := afterSymbol_of_light d (by decide)
  exact ⟨fun d => ⟨decodeSymbol_of_isComma hneg c d, decodeSymbol_of_isComma hpos c d⟩,
    ⟨(hheavy _).symm, (hlight _).symm⟩, ⟨decodeSymbol_of_isComma hneg c _, hheavy _⟩,
    ⟨decodeSymbol_of_isComma hpos c _, hlight _⟩⟩

end Sys2Proof.Machine
end

section
/-!
PROOFS, family 45_constructors_and_stream.md. The stream operations' requests read back, a run of requests as a thread
of `ctx.rd` through the operations (R122), and one word over a link whose ends are equal (R124).
-/

namespace Sys2Proof.Machine

open Sys2Proof

/-! ### The round trip of a sent word (R109, R110) -/

/-- The control flag a sent word arrives with: its own, kept only on a control byte (R92, R124). -/
def arrivingFlag (c : Config) (w : Byte × Bool) : Bool := w.2 && decide (w.1 ∈ c.controlBytes)

theorem flagBit_arrivingFlag (c : Config) (w : Byte × Bool) :
    flagBit (arrivingFlag c w) = if w.2 = true ∧ w.1 ∈ c.controlBytes then 1#1 else 0#1 := by
  have hiff : arrivingFlag c w = true ↔ w.2 = true ∧ w.1 ∈ c.controlBytes := by simp [arrivingFlag]
  rw [← if_congr hiff rfl rfl]
  cases arrivingFlag c w <;> rfl

/-- A byte without flag or without control entry is encoded as data. -/
theorem encodeByte_of_not_arrivingFlag {c : Config} {w : Byte × Bool} (h : arrivingFlag c w = false) (d : Disparity) :
    encodeByte c w.1 w.2 d = encodeByte c w.1 false d := by
  have hpos : resolvePositive c w.1 w.2 = c.encPos w.1 := by
    obtain ⟨hk, hentry⟩ | ⟨-, hdata⟩ := resolvePositive_cases c w.1 w.2
    · have hmem : w.1 ∈ c.controlBytes := List.mem_map_of_mem hentry
      simp [arrivingFlag, hk, hmem] at h
    · exact hdata
  simp only [encodeByte, hpos]
  rfl

/-- Under R8 a sent word decodes, at the disparity it was sent at, to its byte, with the encoder's next disparity. -/
theorem decodeSymbol_encodeByte_arrives {c : Config} (hc : c.WellFormed) (w : Byte × Bool) (d : Disparity) :
    decodeSymbol c (rawOf (encodeByte c w.1 w.2 d).1) d =
      some (w.1, arrivingFlag c w, (encodeByte c w.1 w.2 d).2) := by
  cases hflag : arrivingFlag c w with
  | true =>
    obtain ⟨hk, hmem⟩ : w.2 = true ∧ w.1 ∈ c.controlBytes := by simpa [arrivingFlag] using hflag
    rw [hk]
    exact decodeSymbol_encodeByte_control hc.w3 hc.w6 hc.w8 (mem_ctrlTable_resolvePositive hmem) d
  | false =>
    rw [encodeByte_of_not_arrivingFlag hflag]
    exact dataBytesRoundTrip c hc.w1 hc.w2 hc.w3 hc.w4 hc.w5 hc.w6 hc.w7 w.1 d

/-! ### A link (R123, R124) -/

@[simp] theorem State.lastResponse_deliver (s : State) (r : Response) : (s.deliver r).lastResponse = r := by
  simp [State.lastResponse]

/-- Over a link, the receiver takes the symbol that the transmitter's response carries. -/
theorem linkWord_eq (c : Config) (w : Byte × Bool) (tx rx : State) :
    linkWord c w tx rx =
      let sent := encodeByte c w.1 w.2 tx.rd
      let received := decodeSymbol c (rawOf sent.1) rx.rd
      .next ((tx.setRd sent.2).deliver (Response.ofSymbol sent),
        (rx.setRd (rdAfterReceive rx.rd received)).deliver (Response.ofDataWord received)) := by
  simp [linkWord, execWith, txStepWith, rxStepWith]

/-- One word keeps equal ends equal, and is delivered. -/
theorem linkWord_of_rd_eq {c : Config} (hc : c.WellFormed) (w : Byte × Bool) {tx rx : State} (h : tx.rd = rx.rd) :
    ∃ tx' rx' d, linkWord c w tx rx = .next (tx', rx') ∧ tx'.rd = rx'.rd ∧
      rx'.responses = rx.responses ++ [Response.ofDataWord (some (w.1, arrivingFlag c w, d))] := by
  rw [linkWord_eq, h]
  simp only [decodeSymbol_encodeByte_arrives hc]
  exact ⟨_, _, _, rfl, rfl, rfl⟩

/-! ### A run of requests (R36, R122) -/

@[simp] theorem Disparity.ofBit_toBit (d : Disparity) : Disparity.ofBit d.toBit = d := by
  cases d <;> rfl

@[simp] theorem bitFlag_flagBit (k : Bool) : bitFlag (flagBit k) = k := by
  cases k <;> rfl

@[simp] theorem dataByte_setWidth (b : Byte) : dataByte (b.setWidth 16) = b := by
  ext i hi
  simp [dataByte, hi, show i < 16 by omega]

@[simp] theorem dataAboveByte_setWidth (b : Byte) : dataAboveByte (b.setWidth 16) = 0#8 := by
  ext i hi
  simp [dataAboveByte]

@[simp] theorem dataCode_setWidth (v : Sym10) : dataCode (v.setWidth 16) = v := codeOf_rawOf v

@[simp] theorem dataAboveCode_setWidth (v : Sym10) : dataAboveCode (v.setWidth 16) = 0#6 := by
  ext i hi
  simp [dataAboveCode]

/-- The decoder reads each field where the encoder put it, and the must-be-zero fields are zero. -/
theorem decodeRequest_encodeRequest (i : Instr) : decodeRequest (encodeRequest i) = .ok i := by
  obtain ⟨hop, hrd, hk, hdata⟩ := Laws.OpField.fields_of_packRequest i.opcode i.rdField i.kField i.dataField
  simp only [decodeRequest, encodeRequest, hop, hrd, hk, hdata]
  cases i <;> simp [Instr.opcode, Instr.rdField, Instr.kField, Instr.dataField, checked]

/-- What a list of operations answers when each finds in `ctx.rd` what the one before left there, and the disparity
the last one leaves. -/
def threadAnswers (c : Config) : Disparity → List Instr → List Response × Disparity
  | d, [] => ([], d)
  | d, i :: is =>
    let t := threadAnswers c (nextRd c i d) is
    (answer c i d :: t.1, t.2)

theorem stepWith_request {c : Config} {i : Instr} (hi : i.wellFormed = true) {s : State} {rest : List Input}
    (hin : s.inputs = .request (encodeRequest i) :: rest) :
    stepWith c s = .next (((s.withInputs rest).setRd (nextRd c i s.rd)).deliver (answer c i s.rd)) := by
  simp [stepWith, stepBy, fetch, hin, decodeRequest_encodeRequest, execWith_eq, hi]

/-- A caller that issues only operations within their preconditions gets every answer of the thread. -/
theorem runWith_requests (c : Config) {is : List Instr} (his : ∀ i ∈ is, i.wellFormed = true) {s : State}
    (hin : s.inputs = is.map fun i => Input.request (encodeRequest i)) :
    runWith c is.length s = .next
      { rd := (threadAnswers c s.rd is).2, inputs := [],
        responses := s.responses ++ (threadAnswers c s.rd is).1 } := by
  induction is generalizing s with
  | nil =>
    exact congrArg Host.Outcome.next (State.ext_fields rfl hin (List.append_nil _).symm)
  | cons i is ih =>
    obtain ⟨hi, hrest⟩ := List.forall_mem_cons.mp his
    have hstep := stepWith_request (c := c) hi hin
    simp only [runWith, List.length_cons, runBy, hstep]
    refine (ih hrest rfl).trans ?_
    simp [threadAnswers]

theorem threadAnswers_txstep (c : Config) (d : Disparity) (ws : List (Byte × Bool)) :
    threadAnswers c d (ws.map fun w => Instr.txstep w.2 w.1) =
      ((threadEncode c d ws).1.map Response.ofSymbol, (threadEncode c d ws).2) := by
  induction ws generalizing d with
  | nil => rfl
  | cons w ws ih => simp [threadAnswers, threadEncode, nextRd, answer, ih]

theorem threadDecode_cons_some {c : Config} {d dn : Disparity} {sym : U16} {ss : List U16}
    {rs : List (Byte × Bool × Disparity)} (h : threadDecode c d (sym :: ss) = some (rs, dn)) :
    ∃ r rs', decodeSymbol c sym d = some r ∧ threadDecode c r.2.2 ss = some (rs', dn) ∧ rs = r :: rs' := by
  simp only [threadDecode] at h
  split at h
  case h_1 => cases h
  case h_2 r hr =>
    split at h
    case h_1 => cases h
    case h_2 t ht =>
      cases h
      exact ⟨r, t.1, hr, ht, rfl⟩

theorem threadAnswers_rxstep {c : Config} {d dn : Disparity} {ss : List U16} {rs : List (Byte × Bool × Disparity)}
    (h : threadDecode c d ss = some (rs, dn)) :
    threadAnswers c d (ss.map Instr.rxstep) = (rs.map fun r => Response.ofDataWord (some r), dn) := by
  induction ss generalizing d rs with
  | nil =>
    cases h
    rfl
  | cons sym ss ih =>
    obtain ⟨r, rs', hr, ht, rfl⟩ := threadDecode_cons_some h
    simp [threadAnswers, nextRd, answer, hr, rdAfterReceive, ih ht]

/-! ### The checked constructor (R113) -/

theorem toOption_symbolChecked (s : U16) :
    (symbolChecked s).toOption = if s.toNat > 0x3FF then none else some (codeOf s) := by
  by_cases h : s.toNat ≤ 0x3FF
  · simp [symbolChecked, inRange, h, h.not_gt, Except.toOption]
  · simp [symbolChecked, inRange, h, Nat.lt_of_not_le h, Except.toOption]

/-! ### The obligations -/

/-- Settles O54, by induction on the stream: each word leaves the two ends equal for the next one. -/
theorem loopbackDeliversTheStream : Obligations.LoopbackDeliversTheStream := by
  intro c hc ws
  induction ws with
  | nil => exact fun tx rx h => ⟨tx, rx, rfl, h, [], by simp, rfl⟩
  | cons w ws ih =>
    intro tx rx h
    obtain ⟨tx₁, rx₁, d, hword, heq, hfirst⟩ := linkWord_of_rd_eq hc w h
    obtain ⟨tx', rx', hwords, hend, rs, hrest, hrs⟩ := ih tx₁ rx₁ heq
    refine ⟨tx', rx', by simp only [linkWords, hword, hwords], hend, _ :: rs,
      by rw [hrest, hfirst, List.append_assoc]; rfl, ?_⟩
    rw [List.map_cons, List.map_cons, hrs, ← flagBit_arrivingFlag]
    rfl

/-- Settles O53: the run threads `ctx.rd` through the operations, as the caller of the threaded form does. -/
theorem contextFormIsThreadedForm : Obligations.ContextFormIsThreadedForm := by
  refine ⟨fun c d0 ws s hin => ?_, fun c d0 ss s rs dn hin hdec => ?_⟩
  · have hwf : ∀ i ∈ Instr.rdset d0 :: ws.map (fun w => Instr.txstep w.2 w.1), i.wellFormed = true :=
      List.forall_mem_cons.mpr ⟨rfl, List.forall_mem_map.mpr fun _ _ => rfl⟩
    simpa [threadAnswers, nextRd, answer, threadAnswers_txstep] using runWith_requests c hwf hin
  · have hwf : ∀ i ∈ Instr.rdset d0 :: ss.map Instr.rxstep, i.wellFormed = true :=
      List.forall_mem_cons.mpr ⟨rfl, List.forall_mem_map.mpr fun _ _ => rfl⟩
    simpa [threadAnswers, nextRd, answer, threadAnswers_rxstep hdec] using runWith_requests c hwf hin

/-- Settles O48: the delivered code is the constructor's, absent exactly above `0x3FF`. -/
theorem symchkAnswersRangeCheck : Obligations.SymchkAnswersRangeCheck := by
  refine ⟨fun sym s => ?_, fun sym => (Laws.OpField.symchk sym).1, rfl, rfl, rfl, rfl⟩
  have hexec : exec (.symchk sym) s = .next (s.deliver (Response.ofCode? (symbolChecked sym).toOption)) := rfl
  rw [hexec, toOption_symbolChecked]
  split <;> rfl

/-- Settles O49: the precondition of the normal form is the range. -/
theorem symrawAnswersOrIsRefused : Obligations.SymrawAnswersOrIsRefused := by
  refine ⟨fun sym s h => ?_, fun sym s h => ?_, fun sym => (Laws.OpField.symraw sym).1, fun _ => rfl⟩
  · have hwf : (Instr.symraw sym).wellFormed = true := decide_eq_true h
    rw [exec_eq_execWith, execWith_eq, if_pos hwf]
    rfl
  · have hwf : (Instr.symraw sym).wellFormed = false := decide_eq_false h.not_ge
    rw [exec_eq_execWith, execWith_eq, hwf]
    rfl

/-- Settles O50: the response and `ctx.rd` are those of `ENCODE` at `ctx.rd`; from Negative the comma is `0x0FA`. -/
theorem txstepEncodesAndWritesRd : Obligations.TxstepEncodesAndWritesRd := by
  refine ⟨fun _ _ _ => rfl, fun k b => (Laws.OpField.txstep k b).1, fun s h => ?_⟩
  have hsent : encodeByte chip 0xBC#8 true s.rd = (0x0FA#10, .positive) := by
    rw [h]
    rfl
  simp only [exec, execTxStep, txStepWith, hsent]
  rfl

/-- Settles O52: the response carries the loaded disparity as a bit. -/
theorem rdsetLoadsRd : Obligations.RdsetLoadsRd := by
  refine ⟨fun d s => ?_, fun d => (Laws.OpField.rdset d).1, fun _ _ => ⟨_, rfl, rfl⟩⟩
  cases d <;> rfl

end Sys2Proof.Machine
end

section
/-!
PROOFS, family 60_exceptions.md. The decoder's answer in each of its four cases: a comma, above the range, outside the
legal bit counts, looked up (R96). The hypotheses of the cases exclude each other, so the order of the tests shows in
no answer (R128).
-/

namespace Sys2Proof.Machine

open Sys2Proof

/-- A comma passes the two tests that follow its own: it is in range and has 4 or 6 ones. -/
theorem balancedRange_of_isComma {s : U16} (h : isComma s = true) :
    s.toNat ≤ 0x3FF ∧ 4 ≤ popcount s ∧ popcount s ≤ 6 := by
  obtain rfl | rfl := (isComma_iff s).mp h <;> decide

/-! ### The decoder, one equation per case (R96) -/

theorem decodeChecked_of_isComma {s : U16} (h : isComma s = true) (c : Config) (d : Disparity) :
    decodeChecked c s d = .ok (c.commaByte, true, flipDisparity d) := by
  simp [decodeChecked, h]

theorem decodeChecked_of_lt {s : U16} (h : 0x3FF < s.toNat) (c : Config) (d : Disparity) :
    decodeChecked c s d = .error .malformedSymbol := by
  simp [decodeChecked, inRange, isComma_eq_false_of_lt h, h]

theorem decodeChecked_of_unbalanced {s : U16} (hr : s.toNat ≤ 0x3FF) (hb : popcount s < 4 ∨ 6 < popcount s)
    (c : Config) (d : Disparity) : decodeChecked c s d = .error .disparityInvalid := by
  have hcomma : isComma s = false := by
    rw [← Bool.not_eq_true]
    intro h
    obtain ⟨-, h4, h6⟩ := balancedRange_of_isComma h
    omega
  simp [decodeChecked, inRange, hcomma, hr, hb]

theorem decodeChecked_of_balanced {s : U16} (hc : isComma s = false) (hr : s.toNat ≤ 0x3FF) (h4 : 4 ≤ popcount s)
    (h6 : popcount s ≤ 6) (c : Config) (d : Disparity) : decodeChecked c s d = lookupSymbol c (codeOf s) d := by
  simp [decodeChecked, inRange, hc, hr, h4.not_gt, h6.not_gt]

/-- The lookup fails in one way only: no entry in either table. -/
theorem lookupSymbol_eq_error_iff (c : Config) (v : Sym10) (d : Disparity) (e : FailureKind) :
    lookupSymbol c v d = .error e ↔
      e = .unmapped ∧ ctrlBySym c (withDisparity d v) = none ∧ decPos c (withDisparity d v) = none := by
  cases hctrl : ctrlBySym c (withDisparity d v) with
  | some kb => simp [lookupSymbol, hctrl]
  | none =>
    cases hdata : decPos c (withDisparity d v) with
    | some db => simp [lookupSymbol, hctrl, hdata]
    | none => simp [lookupSymbol, hctrl, hdata, eq_comm]

/-! ### The obligation -/

/-- Settles O55, by the four cases of the decoder; in each one every clause follows from the answer. -/
theorem failureKindsInOrder : Obligations.FailureKindsInOrder := by
  intro c s d
  by_cases hcomma : isComma s = true
  · obtain ⟨hr, h4, h6⟩ := balancedRange_of_isComma hcomma
    simp [decodeChecked_of_isComma hcomma, hcomma, hr, h4, h6]
  rw [Bool.not_eq_true] at hcomma
  obtain hr | hr := Nat.lt_or_ge 0x3FF s.toNat
  · simp [decodeChecked_of_lt hr, hcomma, hr]
  by_cases hb : popcount s < 4 ∨ 6 < popcount s
  · have hband : 4 ≤ popcount s → ¬ popcount s ≤ 6 := by omega
    simp +contextual [decodeChecked_of_unbalanced hr hb, hcomma, hr, hb, hband]
  · obtain ⟨h4, h6⟩ : 4 ≤ popcount s ∧ popcount s ≤ 6 := by omega
    simp [decodeChecked_of_balanced hcomma hr h4 h6, lookupSymbol_eq_error_iff, hcomma, hr, h4, h6]

end Sys2Proof.Machine
end

section
/-!
PROOFS, family 70_reset_and_hazards.md. The step that takes a context reset (R142), at any configuration.
-/

namespace Sys2Proof.Machine

open Sys2Proof

/-- `stepBy` takes a context reset without asking what the operations do. -/
theorem stepBy_resetContext (c : Config) (ex : Instr → State → Outcome) {s : State} {rest : List Input}
    (hin : s.inputs = .resetContext :: rest) :
    stepBy c ex s = .next ((s.withInputs rest).resetContext c) := by
  simp only [stepBy, fetch, hin]

/-- Settles O11: both machines take the reset by the same rule, and `RDSET` is settled with O52. -/
theorem contextResetLoadsRdInit : Obligations.ContextResetLoadsRdInit := by
  obtain ⟨-, -, hrdset⟩ := rdsetLoadsRd
  exact ⟨fun c _ _ hin => stepBy_resetContext c (execWith c) hin,
    fun _ _ hin => stepBy_resetContext chip exec hin, hrdset⟩

end Sys2Proof.Machine
end

section
/-!
PROOFS, family other: the request word. Which words decode (R48 to R50), said with the must-be-zero masks of the
operation table; that each decodes to one operation; and the packed records (R43, R44).
-/

namespace Sys2Proof.Machine

open Sys2Proof

/-! ### The must-be-zero fields as masks (R49) -/

/-- A field is zero exactly when the word has no bit under the field's mask. -/
theorem and_shiftLeft_allOnes_eq_zero_iff {m : Nat} (w : BitVec m) (start len : Nat) :
    w &&& ((BitVec.allOnes len).setWidth m <<< start) = 0#m ↔ w.extractLsb' start len = 0#len := by
  constructor
  · intro h
    ext i hi
    have hbit := congrArg (BitVec.getLsbD · (start + i)) h
    by_cases hm : start + i < m
    · simpa [hi, hm, show i < m by omega] using hbit
    · simpa using BitVec.getLsbD_of_ge w (start + i) (by omega)
  · intro h
    ext i hi
    by_cases hlow : i < start
    · simp [hlow]
    by_cases hhigh : i - start < len
    · have hbit : w.getLsbD i = false := by
        simpa [hhigh, show start + (i - start) = i by omega] using congrArg (BitVec.getLsbD · (i - start)) h
      simp [← BitVec.getLsbD_eq_getElem, hbit]
    · simp [hhigh]

theorem and_or_eq_zero_iff {m : Nat} (w a b : BitVec m) :
    w &&& (a ||| b) = 0#m ↔ w &&& a = 0#m ∧ w &&& b = 0#m := by
  rw [BitVec.and_or_distrib_left, BitVec.or_eq_zero_iff]

theorem and_mask_op (w : ReqWord) : w &&& 0x3C0000#22 = 0#22 ↔ ReqWord.op w = 0#4 :=
  and_shiftLeft_allOnes_eq_zero_iff w 18 4

theorem and_mask_rd (w : ReqWord) : w &&& 0x020000#22 = 0#22 ↔ ReqWord.rd w = 0#1 :=
  and_shiftLeft_allOnes_eq_zero_iff w 17 1

theorem and_mask_k (w : ReqWord) : w &&& 0x010000#22 = 0#22 ↔ ReqWord.k w = 0#1 :=
  and_shiftLeft_allOnes_eq_zero_iff w 16 1

theorem and_mask_data (w : ReqWord) : w &&& 0x00FFFF#22 = 0#22 ↔ ReqWord.data w = 0#16 :=
  and_shiftLeft_allOnes_eq_zero_iff w 0 16

theorem and_mask_aboveByte (w : ReqWord) : w &&& 0x00FF00#22 = 0#22 ↔ dataAboveByte (ReqWord.data w) = 0#8 := by
  rw [dataAboveByte, ReqWord.data, BitVec.extractLsb'_extractLsb'_of_le (by decide)]
  exact and_shiftLeft_allOnes_eq_zero_iff w 8 8

theorem and_mask_aboveCode (w : ReqWord) : w &&& 0x00FC00#22 = 0#22 ↔ dataAboveCode (ReqWord.data w) = 0#6 := by
  rw [dataAboveCode, ReqWord.data, BitVec.extractLsb'_extractLsb'_of_le (by decide)]
  exact and_shiftLeft_allOnes_eq_zero_iff w 10 6

theorem and_mask_rd_k (w : ReqWord) : w &&& 0x030000#22 = 0#22 ↔ ReqWord.rd w = 0#1 ∧ ReqWord.k w = 0#1 :=
  (and_or_eq_zero_iff w 0x020000#22 0x010000#22).trans (and_congr (and_mask_rd w) (and_mask_k w))

theorem and_mask_k_aboveCode (w : ReqWord) :
    w &&& 0x01FC00#22 = 0#22 ↔ ReqWord.k w = 0#1 ∧ dataAboveCode (ReqWord.data w) = 0#6 :=
  (and_or_eq_zero_iff w 0x010000#22 0x00FC00#22).trans (and_congr (and_mask_k w) (and_mask_aboveCode w))

theorem and_mask_k_data (w : ReqWord) : w &&& 0x01FFFF#22 = 0#22 ↔ ReqWord.k w = 0#1 ∧ ReqWord.data w = 0#16 :=
  (and_or_eq_zero_iff w 0x010000#22 0x00FFFF#22).trans (and_congr (and_mask_k w) (and_mask_data w))

theorem and_mask_rd_aboveByte (w : ReqWord) :
    w &&& 0x02FF00#22 = 0#22 ↔ ReqWord.rd w = 0#1 ∧ dataAboveByte (ReqWord.data w) = 0#8 :=
  (and_or_eq_zero_iff w 0x020000#22 0x00FF00#22).trans (and_congr (and_mask_rd w) (and_mask_aboveByte w))

/-! ### The decoder, read backwards (R48 to R50) -/

@[simp] theorem Disparity.toBit_ofBit (b : BitVec 1) : (Disparity.ofBit b).toBit = b := by
  revert b
  decide

@[simp] theorem flagBit_bitFlag (b : BitVec 1) : flagBit (bitFlag b) = b := by
  revert b
  decide

/-- The four fields make up the whole word (R46). -/
theorem packRequest_fields (w : ReqWord) :
    packRequest (ReqWord.op w) (ReqWord.rd w) (ReqWord.k w) (ReqWord.data w) = w := by
  refine BitVec.eq_of_getLsbD_eq fun i hi => ?_
  simp only [Laws.OpField.getLsbD_packRequest, ReqWord.op, ReqWord.rd, ReqWord.k, ReqWord.data,
    BitVec.getLsbD_extractLsb']
  grind

theorem setWidth_dataByte {data : BitVec 16} (h : dataAboveByte data = 0#8) : (dataByte data).setWidth 16 = data :=
  calc (dataByte data).setWidth 16
    _ = dataAboveByte data ++ dataByte data := by simp [h, BitVec.setWidth_eq_append]
    _ = data.extractLsb' 0 16 := BitVec.extractLsb'_append_extractLsb'_eq_extractLsb' rfl
    _ = data := BitVec.extractLsb'_eq_self

theorem setWidth_dataCode {data : BitVec 16} (h : dataAboveCode data = 0#6) : (dataCode data).setWidth 16 = data :=
  calc (dataCode data).setWidth 16
    _ = dataAboveCode data ++ dataCode data := by simp [h, BitVec.setWidth_eq_append]
    _ = data.extractLsb' 0 16 := BitVec.extractLsb'_append_extractLsb'_eq_extractLsb' rfl
    _ = data := BitVec.extractLsb'_eq_self

theorem checked_eq_ok_iff {op : BitVec 4} {zero : Bool} {i j : Instr} :
    checked op zero i = .ok j ↔ zero = true ∧ i = j := by
  cases zero <;> simp [checked]

/-- A word decodes exactly when its select code is an operation's and its must-be-zero fields are zero. -/
theorem exists_decodeRequest_ok_iff (w : ReqWord) :
    (∃ i, decodeRequest w = .ok i) ↔
      (ReqWord.op w).toNat < 11 ∧ w &&& mbzMask (ReqWord.op w).toNat = 0#22 := by
  obtain hop | hop := Nat.lt_or_ge (ReqWord.op w).toNat 11
  · simp only [decodeRequest]
    split
    case h_12 => grind
    all_goals
      rename_i hop
      simp [hop, mbzMask, checked_eq_ok_iff, and_mask_k, and_mask_aboveByte, and_mask_rd_k, and_mask_k_aboveCode,
        and_mask_k_data, and_mask_rd_aboveByte]
  · simp [decodeRequest_reservedOp hop, hop.not_gt]

/-- The fields of a decoded word are those of the operation it decodes to. -/
theorem fields_of_decodeRequest {w : ReqWord} {i : Instr} (h : decodeRequest w = .ok i) :
    i.opcode = ReqWord.op w ∧ i.rdField = ReqWord.rd w ∧ i.kField = ReqWord.k w ∧ i.dataField = ReqWord.data w := by
  simp only [decodeRequest] at h
  split at h
  case h_12 => cases h
  all_goals
    rename_i hop
    obtain ⟨hzero, rfl⟩ := checked_eq_ok_iff.mp h
    simp only [Bool.and_eq_true, beq_iff_eq] at hzero
    refine ⟨BitVec.eq_of_toNat_eq hop.symm, ?_⟩
    simp [Instr.rdField, Instr.kField, Instr.dataField, hzero, setWidth_dataByte, setWidth_dataCode]

/-- A decoded word is the encoding of what it decodes to, every bit of it. -/
theorem encodeRequest_of_decodeRequest {w : ReqWord} {i : Instr} (h : decodeRequest w = .ok i) :
    encodeRequest i = w := by
  obtain ⟨hop, hrd, hk, hdata⟩ := fields_of_decodeRequest h
  rw [encodeRequest, hop, hrd, hk, hdata, packRequest_fields]

/-! ### The rows of the operation table -/

theorem opcode_lt (i : Instr) : i.opcode.toNat < opcodeTable.length := by
  cases i <;> simp [Instr.opcode, opcodeTable]

theorem mnemonic_opcodeTable (i : Instr) : (opcodeTable[i.opcode.toNat]'(opcode_lt i)).mnemonic = i.mnemonic := by
  cases i <;> rfl

/-- Row `n` fixes the select code to `n` and the must-be-zero fields of `n` to zero. -/
theorem mask_pattern_opcodeTable : ∀ n : Fin opcodeTable.length,
    opcodeTable[n].mask = 0x3C0000#22 ||| mbzMask n ∧
    opcodeTable[n].pattern &&& opcodeTable[n].mask = opcodeTable[n].pattern ∧
    opcodeTable[n].pattern &&& mbzMask n = 0#22 ∧ (ReqWord.op opcodeTable[n].pattern).toNat = n := by
  decide

theorem xor_and_distrib {m : Nat} (x y z : BitVec m) : (x ^^^ y) &&& z = x &&& z ^^^ y &&& z := by
  ext i
  simp [Bool.and_xor_distrib_right]

/-- A word meets row `n` when it differs from the row's pattern in no bit under the row's mask. -/
theorem opRow_holds_iff (n : Fin opcodeTable.length) (w : ReqWord) :
    opcodeTable[n].holds w = true ↔ (ReqWord.op w).toNat = n ∧ w &&& mbzMask n = 0#22 := by
  obtain ⟨hmask, hpat, hmbz, hop⟩ := mask_pattern_opcodeTable n
  calc opcodeTable[n].holds w = true
    _ ↔ w &&& opcodeTable[n].mask ^^^ opcodeTable[n].pattern = 0#22 := by
      rw [OpRow.holds, beq_iff_eq, BitVec.xor_eq_zero_iff]
    _ ↔ (w ^^^ opcodeTable[n].pattern) &&& (0x3C0000#22 ||| mbzMask n) = 0#22 := by
      rw [← hmask, xor_and_distrib, hpat]
    _ ↔ ReqWord.op (w ^^^ opcodeTable[n].pattern) = 0#4 ∧ w &&& mbzMask n = 0#22 := by
      rw [and_or_eq_zero_iff, and_mask_op, xor_and_distrib, hmbz, BitVec.xor_zero]
    _ ↔ (ReqWord.op w).toNat = n ∧ w &&& mbzMask n = 0#22 := by
      have hxor : ReqWord.op (w ^^^ opcodeTable[n].pattern) = ReqWord.op w ^^^ ReqWord.op opcodeTable[n].pattern :=
        BitVec.extractLsb'_xor
      rw [hxor, BitVec.xor_eq_zero_iff, ← BitVec.toNat_inj, hop]

/-! ### The packed records (R43, R44) -/

theorem unpackDataWord_packDataWord (w : DataWord) : unpackDataWord (packDataWord w) = w := by
  have hbyte : (packDataWord w).extractLsb' 0 8 = w.byte := BitVec.extractLsb'_append_eq_right
  have hflag : (packDataWord w).extractLsb' 8 1 = flagBit w.isControl :=
    (BitVec.extractLsb'_append_eq_of_le (by decide)).trans BitVec.extractLsb'_append_eq_right
  have hdisparity : (packDataWord w).extractLsb' 9 1 = w.disparity.toBit :=
    (BitVec.extractLsb'_append_eq_of_le (by decide)).trans BitVec.extractLsb'_append_eq_left
  simp [unpackDataWord, hbyte, hflag, hdisparity]

theorem packDataWord_unpackDataWord (v : BitVec 10) : packDataWord (unpackDataWord v) = v :=
  calc packDataWord (unpackDataWord v)
    _ = v.extractLsb' 9 1 ++ v.extractLsb' 8 1 ++ v.extractLsb' 0 8 := by simp [packDataWord, unpackDataWord]
    _ = v.extractLsb' 8 2 ++ v.extractLsb' 0 8 :=
      congrArg (· ++ _) (BitVec.extractLsb'_append_extractLsb'_eq_extractLsb' rfl)
    _ = v.extractLsb' 0 10 := BitVec.extractLsb'_append_extractLsb'_eq_extractLsb' rfl
    _ = v := BitVec.extractLsb'_eq_self

theorem unpackWireSymbol_packWireSymbol (y : WireSymbol) : unpackWireSymbol (packWireSymbol y) = y := by
  have hcode : (packWireSymbol y).extractLsb' 0 10 = y.code := BitVec.extractLsb'_append_eq_right
  have hdisparity : (packWireSymbol y).extractLsb' 10 1 = y.disparity.toBit := BitVec.extractLsb'_append_eq_left
  simp [unpackWireSymbol, hcode, hdisparity]

theorem packWireSymbol_unpackWireSymbol (v : BitVec 11) : packWireSymbol (unpackWireSymbol v) = v :=
  calc packWireSymbol (unpackWireSymbol v)
    _ = v.extractLsb' 10 1 ++ v.extractLsb' 0 10 := by simp [packWireSymbol, unpackWireSymbol]
    _ = v.extractLsb' 0 11 := BitVec.extractLsb'_append_extractLsb'_eq_extractLsb' rfl
    _ = v := BitVec.extractLsb'_eq_self

/-! ### The obligations -/

/-- Settles O1: the encoder's fields are where the decoder reads them. -/
theorem requestRoundTrip : Obligations.RequestRoundTrip := decodeRequest_encodeRequest

/-- Settles O2: the operation's four fields are the word's, and they make up the whole word. -/
theorem requestWordHasOneMeaning : Obligations.RequestWordHasOneMeaning :=
  fun _ _ => encodeRequest_of_decodeRequest

/-- Settles O3: a row asks for its select code and for zero under its must-be-zero mask, and so does the decoder. -/
theorem decoderFollowsOpcodeTable : Obligations.DecoderFollowsOpcodeTable := by
  refine fun w => ⟨fun i h => ?_, fun r hr h => ?_⟩
  · obtain ⟨hop, -⟩ := fields_of_decodeRequest h
    obtain ⟨-, hmbz⟩ := (exists_decodeRequest_ok_iff w).mp ⟨i, h⟩
    rw [← hop] at hmbz
    exact ⟨_, List.getElem_mem (opcode_lt i), mnemonic_opcodeTable i,
      (opRow_holds_iff ⟨_, opcode_lt i⟩ w).mpr ⟨congrArg BitVec.toNat hop.symm, hmbz⟩⟩
  · obtain ⟨n, rfl⟩ := List.mem_iff_get.mp hr
    obtain ⟨hop, hmbz⟩ := (opRow_holds_iff n w).mp h
    obtain ⟨i, hi⟩ := (exists_decodeRequest_ok_iff w).mpr ⟨hop ▸ n.isLt, hop ▸ hmbz⟩
    refine ⟨i, hi, ?_⟩
    obtain ⟨hcode, -⟩ := fields_of_decodeRequest hi
    have hn : n = ⟨i.opcode.toNat, opcode_lt i⟩ := Fin.ext (hop.symm.trans (congrArg BitVec.toNat hcode.symm))
    rw [hn]
    exact (mnemonic_opcodeTable i).symm

/-- Settles O9: each field of a record is read back from where it was put, and the fields make up the whole value. -/
theorem packedRecordsRoundTrip : Obligations.PackedRecordsRoundTrip :=
  ⟨unpackDataWord_packDataWord, packDataWord_unpackDataWord, unpackWireSymbol_packWireSymbol,
    packWireSymbol_unpackWireSymbol⟩

/-- Settles O6: the decoder is evaluated on each word. -/
theorem sampleRequestWordsDecode : Obligations.SampleRequestWordsDecode :=
  ⟨rfl, rfl, rfl, rfl, rfl, rfl, rfl, rfl, rfl, rfl, rfl⟩

end Sys2Proof.Machine
end

section
/-!
PROOFS, family other: one step and a run of steps. A request with a meaning is one that decodes to an operation within
its precondition (R50); a step takes the first of the caller's inputs and, on such a request, completes.
-/

namespace Sys2Proof.Machine

open Sys2Proof

/-! ### Requests with a meaning (R50) -/

theorem wellFormed_eq_false_iff (i : Instr) :
    i.wellFormed = false ↔ i.opcode.toNat = 7 ∧ 0x3FF < i.dataField.toNat := by
  cases i with
  | symraw s => simp [Instr.wellFormed, Instr.opcode, Instr.dataField]
  | _ => simp [Instr.wellFormed, Instr.opcode]

/-- A request has no meaning when it decodes to no operation within its precondition. -/
theorem meaninglessRequest_iff (w : ReqWord) :
    MeaninglessRequest w ↔ ∀ i, decodeRequest w = .ok i → i.wellFormed = false := by
  have hdecodes := exists_decodeRequest_ok_iff w
  cases hw : decodeRequest w with
  | ok i =>
    obtain ⟨hop, -, -, hdata⟩ := fields_of_decodeRequest hw
    obtain ⟨hselect, hmbz⟩ := hdecodes.mp ⟨i, hw⟩
    simp [MeaninglessRequest, hselect.not_ge, hmbz, wellFormed_eq_false_iff, hop, hdata]
  | error m =>
    have hfails : ¬ ((ReqWord.op w).toNat < 11 ∧ w &&& mbzMask (ReqWord.op w).toNat = 0#22) := by
      rw [← hdecodes, hw]
      simp
    rw [not_and_or, not_lt] at hfails
    simpa [MeaninglessRequest, ← or_assoc] using .inl hfails

/-! ### One step (R36, R140, R142) -/

theorem step_idle {s : State} (hin : s.inputs = []) : step s = .next s := by
  simp [step, stepBy, fetch, hin]

theorem step_of_decodes {s : State} {w : ReqWord} {rest : List Input} {i : Instr}
    (hin : s.inputs = .request w :: rest) (hw : decodeRequest w = .ok i) : step s = exec i (s.withInputs rest) := by
  simp [step, stepBy, fetch, hin, hw]

theorem step_of_malformed {s : State} {w : ReqWord} {rest : List Input} {m : Malformed}
    (hin : s.inputs = .request w :: rest) (hw : decodeRequest w = .error m) : step s = .refused (refusalOf m) := by
  simp [step, stepBy, fetch, hin, hw]

theorem exec_of_not_wellFormed {i : Instr} (hi : i.wellFormed = false) (s : State) :
    exec i s = .refused .symrawOutOfRange := by
  simp [exec_eq_execWith, execWith_eq, hi]

theorem step_refuses_of_meaningless {s : State} {w : ReqWord} {rest : List Input}
    (hin : s.inputs = .request w :: rest) (h : MeaninglessRequest w) : ∃ r, step s = .refused r := by
  cases hw : decodeRequest w with
  | ok i =>
    have hi := (meaninglessRequest_iff w).mp h i hw
    exact ⟨_, (step_of_decodes hin hw).trans (exec_of_not_wellFormed hi _)⟩
  | error m => exact ⟨_, step_of_malformed hin hw⟩

theorem step_completes_of_meaningful {s : State} {w : ReqWord} {rest : List Input}
    (hin : s.inputs = .request w :: rest) (h : ¬ MeaninglessRequest w) : ∃ t, step s = .next t := by
  simp only [meaninglessRequest_iff, not_forall, Bool.not_eq_false] at h
  obtain ⟨i, hw, hi⟩ := h
  exact ⟨_, (step_of_decodes hin hw).trans (exec_next_iff.mpr ⟨hi, rfl⟩)⟩

/-- A step that completes has taken the first input, if there was one. -/
theorem step_inputs {s t : State} (h : step s = .next t) : t.inputs = s.inputs.tail := by
  obtain ⟨hin, rfl⟩ | ⟨rest, hin, rfl⟩ | ⟨w, rest, i, hin, -, hexec⟩ := stepBy_next h
  · simp [hin]
  · simp [hin]
  · obtain ⟨-, rfl⟩ := exec_next_iff.mp hexec
    simp [hin]

/-- A step that completes has delivered nothing or one lawful response (R51). -/
theorem step_responses {s t : State} (h : step s = .next t) :
    t.responses = s.responses ∨ ∃ r, r.Lawful ∧ t.responses = s.responses ++ [r] := by
  obtain ⟨-, rfl⟩ | ⟨rest, -, rfl⟩ | ⟨w, rest, i, -, -, hexec⟩ := stepBy_next h
  · exact .inl rfl
  · exact .inl rfl
  · obtain ⟨-, rfl⟩ := exec_next_iff.mp hexec
    exact .inr ⟨_, (answer_fitsRow chip i _).lawful, rfl⟩

/-- From a state whose requests all have a meaning a step completes, and the requests left are some of them. -/
theorem wellIssued_step {s : State} (h : s.WellIssued) : ∃ t, step s = .next t ∧ t.WellIssued := by
  obtain ⟨t, ht⟩ : ∃ t, step s = .next t := by
    match hin : s.inputs with
    | [] => exact ⟨_, step_idle hin⟩
    | .resetContext :: rest => exact ⟨_, stepBy_resetContext chip exec hin⟩
    | .request w :: rest => exact step_completes_of_meaningful hin (h w (by simp [hin]))
  refine ⟨t, ht, fun w hw => h w ?_⟩
  rw [step_inputs ht] at hw
  exact List.mem_of_mem_tail hw

/-! ### The obligations -/

/-- Settles O14, by induction on the number of steps. -/
theorem wellIssuedRunsNeverStop : Obligations.WellIssuedRunsNeverStop := by
  intro s h k
  induction k generalizing s with
  | zero => exact ⟨s, rfl, h⟩
  | succ k ih =>
    obtain ⟨t, hstep, ht⟩ := wellIssued_step h
    simpa only [runBy, hstep] using ih t ht

/-- Settles O15: the one response a step may add fits its operation's row, so it is lawful. -/
theorem stepKeepsResponsesLawful : Obligations.StepKeepsResponsesLawful := by
  intro s t hs h
  obtain hsame | ⟨r, hr, hmore⟩ := step_responses h
  · simpa only [State.ResponsesLawful, hsame] using hs
  · rw [State.ResponsesLawful, hmore]
    exact List.forall_mem_append.mpr ⟨hs, List.forall_mem_singleton.mpr hr⟩

/-- Settles O8: the step decodes the request; a well-formed operation completes and the rest is refused. -/
theorem meaninglessRequestsRefused : Obligations.MeaninglessRequestsRefused := by
  intro s w rest hin
  refine ⟨⟨fun ⟨r, hrefused⟩ => by_contra fun h => ?_, step_refuses_of_meaningless hin⟩, fun h ⟨t, hnext⟩ => ?_⟩
  · obtain ⟨t, hnext⟩ := step_completes_of_meaningful hin h
    simp [hrefused] at hnext
  · obtain ⟨r, hrefused⟩ := step_refuses_of_meaningless hin h
    simp [hrefused] at hnext

/-- Settles O10: the two equations of a step for a request that decodes and for no input. -/
theorem stepRunsDecodedOperation : Obligations.StepRunsDecodedOperation :=
  ⟨fun _ _ _ _ => step_of_decodes, fun _ => step_idle⟩

/-- Settles O13: the normal form of an operation within its precondition is a next state. -/
theorem wellFormedOperationsComplete : Obligations.WellFormedOperationsComplete :=
  fun _ _ hi => ⟨_, exec_next_iff.mpr ⟨hi, rfl⟩⟩

/-- Settles O12: the fields of the reset state. -/
theorem resetHoldsRdInit : Obligations.ResetHoldsRdInit :=
  ⟨fun c => ⟨State.resetWith_rd c, State.resetWith_inputs c, State.resetWith_responses c⟩, rfl⟩

/-- Settles O16: nothing has been delivered at reset. -/
theorem resetResponsesLawful : Obligations.ResetResponsesLawful :=
  fun _ hr => absurd hr List.not_mem_nil

end Sys2Proof.Machine
end

section
/-!
PROOFS, family other: the operations. The normal form with its fields written out, what a failure leaves (R129), and
the disparity each stream operation leaves in `ctx.rd` (R77).
-/

namespace Sys2Proof.Machine

open Sys2Proof

/-! ### The normal form (R18, R22) -/

theorem execWith_of_wellFormed {i : Instr} (hi : i.wellFormed = true) (c : Config) (s : State) :
    execWith c i s = .next { s with rd := nextRd c i s.rd, responses := s.responses ++ [answer c i s.rd] } :=
  execWith_next_iff.mpr ⟨hi, rfl⟩

/-- A core operation does not look at `ctx.rd`. -/
theorem answer_of_not_isStream {i : Instr} (h : i.isStream = false) (c : Config) (d d' : Disparity) :
    answer c i d = answer c i d' := by
  cases i with
  | txstep | rxstep | rdset => cases h
  | _ => rfl

/-- The response by which an operation lengthens the list is its answer, and the rest of the state is as it left it. -/
theorem execWith_delivers {c : Config} {i : Instr} {s t : State} {r : Response} (h : execWith c i s = .next t)
    (hr : t.responses = s.responses ++ [r]) :
    r = answer c i s.rd ∧ t.rd = nextRd c i s.rd ∧ t.inputs = s.inputs := by
  obtain ⟨-, rfl⟩ := execWith_next_iff.mp h
  exact ⟨by simpa [eq_comm] using hr, rfl, rfl⟩

/-! ### Failures (R125, R127, R129) -/

theorem Response.ofDataWord_valid (x : Option (Byte × Bool × Disparity)) :
    (Response.ofDataWord x).valid = x.isSome := by
  cases x <;> rfl

theorem Response.ofCode?_valid (x : Option Sym10) : (Response.ofCode? x).valid = x.isSome := by
  cases x <;> rfl

/-- Only the decoders, on a rejected symbol, and the range check answer `none`. -/
theorem answer_invalid {c : Config} {i : Instr} {d : Disparity} (h : (answer c i d).valid = false) :
    (∃ d' sym, i = .decode d' sym) ∨ (∃ sym, i = .rxstep sym ∧ decodeSymbol c sym d = none) ∨
    (∃ sym, i = .symchk sym ∧ 0x3FF < sym.toNat) := by
  cases i with
  | decode d' sym => exact .inl ⟨d', sym, rfl⟩
  | rxstep sym =>
    exact .inr (.inl ⟨sym, rfl, by simpa [answer, Response.ofDataWord_valid] using h⟩)
  | symchk sym =>
    exact .inr (.inr ⟨sym, rfl, by simpa [answer, Response.ofCode?_valid, toOption_symbolChecked] using h⟩)
  | _ => cases h

theorem nextRd_of_answer_invalid {c : Config} {i : Instr} {d : Disparity} (h : (answer c i d).valid = false) :
    nextRd c i d = d := by
  obtain ⟨d', sym, rfl⟩ | ⟨sym, rfl, hnone⟩ | ⟨sym, rfl, -⟩ := answer_invalid h
  · rfl
  · simp [nextRd, hnone, rdAfterReceive]
  · rfl

/-! ### What a stream operation leaves in `ctx.rd` (R77, R105) -/

/-- A symbol accepted off the comma path came through the lookup, whose next disparity is `AFTER`. -/
theorem next_of_decodeSymbol_some {c : Config} {s : U16} {d : Disparity} {r : Byte × Bool × Disparity}
    (hcomma : isComma s = false) (h : decodeSymbol c s d = some r) : r.2.2 = afterSymbol d (codeOf s) := by
  obtain ⟨hcomma', -⟩ | ⟨-, -, -, -, ⟨kb, -, rfl⟩ | ⟨db, -, -, rfl⟩⟩ := decodeSymbol_some h
  · simp [hcomma] at hcomma'
  · rfl
  · rfl

theorem nextRd_rxstep_of_isComma {sym : U16} (h : isComma sym = true) (c : Config) (d : Disparity) :
    nextRd c (.rxstep sym) d = flipDisparity d := by
  simp [nextRd, decodeSymbol_of_isComma h, rdAfterReceive]

theorem nextRd_rxstep_of_valid {c : Config} {sym : U16} {d : Disparity} (hcomma : isComma sym = false)
    (h : (answer c (.rxstep sym) d).valid = true) : nextRd c (.rxstep sym) d = afterSymbol d (codeOf sym) := by
  obtain ⟨r, hr⟩ : ∃ r, decodeSymbol c sym d = some r :=
    Option.isSome_iff_exists.mp ((Response.ofDataWord_valid _).symm.trans h)
  simp [nextRd, hr, rdAfterReceive, next_of_decodeSymbol_some hcomma hr]

theorem flipDisparity_flipDisparity (d : Disparity) : flipDisparity (flipDisparity d) = d := by
  cases d <;> rfl

theorem flipDisparity_injective : Function.Injective flipDisparity :=
  Function.Involutive.injective flipDisparity_flipDisparity

theorem flagBit_eq_ite (k : Bool) : flagBit k = if k then 1#1 else 0#1 := by
  cases k <;> rfl

/-! ### The obligations -/

/-- Settles O17: a core operation's answer is the same from any `ctx.rd`, which it does not write. -/
theorem coreOperationsArePure : Obligations.CoreOperationsArePure := by
  intro c i hstream hi
  refine ⟨answer c i .negative, fun s => ?_⟩
  rw [execWith_of_wellFormed hi, nextRd_of_not_isStream hstream, answer_of_not_isStream hstream c s.rd .negative]

/-- Settles O18: the normal form's two functions of `ctx.rd`. -/
theorem resultsDependOnRdOnly : Obligations.ResultsDependOnRdOnly := by
  intro c i d hi
  refine ⟨nextRd c i d, answer c i d, ?_⟩
  rintro s rfl
  exact execWith_of_wellFormed hi c s

/-- Settles O29: `TXSTEP` delivers the symbol it applies `AFTER` to; `RXSTEP` by the three outcomes of the decoder. -/
theorem streamTransitionsAreAfterOrFlip : Obligations.StreamTransitionsAreAfterOrFlip := by
  refine ⟨fun c k b s => ⟨_, _, rfl, rfl, rfl⟩, fun c sym s => ?_⟩
  refine ⟨_, _, execWith_of_wellFormed rfl c s, rfl, fun h => ⟨?_, nextRd_rxstep_of_isComma h c s.rd⟩,
    nextRd_rxstep_of_valid, nextRd_of_answer_invalid⟩
  simp [answer, decodeSymbol_of_isComma h]

/-- Settles O42: off the comma path the decoder's next disparity is the lookup's. -/
theorem decodedNextDisparityIsAfter : Obligations.DecodedNextDisparityIsAfter :=
  fun _ _ _ _ _ _ => next_of_decodeSymbol_some

/-- Settles O56: a failed answer is the absent one, and the operations that fail then hold `ctx.rd`. -/
theorem failureChangesNothing : Obligations.FailureChangesNothing := by
  intro c i s t h r hr hv
  obtain ⟨rfl, hrd, hin⟩ := execWith_delivers h hr
  exact ⟨hrd.trans (nextRd_of_answer_invalid hv), hin, (answer_fitsRow c i s.rd).lawful hv⟩

/-- Settles O57: the answers that can be `none`. -/
theorem onlyDecodersAndCheckFail : Obligations.OnlyDecodersAndCheckFail := by
  intro c i s t r h hr hv
  obtain ⟨rfl, -, -⟩ := execWith_delivers h hr
  exact (answer_invalid hv).imp_right (Or.imp_left fun ⟨sym, hi, _⟩ => ⟨sym, hi⟩)

/-- Settles O59: each receiver flips, and `FLIP` is injective. -/
theorem commaDoesNotResynchronise : Obligations.CommaDoesNotResynchronise := by
  intro c sym s s' t t' hcomma hne h h'
  obtain ⟨-, rfl⟩ := execWith_next_iff.mp h
  obtain ⟨-, rfl⟩ := execWith_next_iff.mp h'
  simpa [nextRd_rxstep_of_isComma hcomma] using flipDisparity_injective.ne hne

/-- Settles O27: the response carries the other disparity as a bit. -/
theorem flipAnswersOtherDisparity : Obligations.FlipAnswersOtherDisparity := by
  refine ⟨fun d s => ?_, flipDisparity_flipDisparity, fun d => ?_⟩
  · cases d <;> rfl
  · cases d <;> decide

/-- Settles O35: the symbol is the resolved one, adapted to the disparity. -/
theorem encodeAnswersSymbolAndNextDisparity : Obligations.EncodeAnswersSymbolAndNextDisparity :=
  ⟨fun d k b _ => ⟨withDisparity d (resolvePositive chip b k), rfl, rfl⟩,
    fun d k b => (Laws.OpField.encode d k b).1, rfl, rfl, rfl, rfl⟩

/-- Settles O51: the two forms of what the decoder answers at `ctx.rd`. -/
theorem rxstepDecodesAndHoldsOnRejection : Obligations.RxstepDecodesAndHoldsOnRejection := by
  intro sym s
  have hexec : exec (.rxstep sym) s =
      .next ((s.setRd (rdAfterReceive s.rd (decodeSymbol chip sym s.rd))).deliver
        (Response.ofDataWord (decodeSymbol chip sym s.rd))) := rfl
  refine ⟨fun b k d' h => ?_, fun h => ?_⟩
  · rw [hexec, h, ← flagBit_eq_ite]
    rfl
  · rw [hexec, h]
    rfl

end Sys2Proof.Machine
end

section
/-!
PROOFS, family other: several streams (R36, R139). A step of the product is a step of one stream, written back at its
place.
-/

namespace Sys2Proof.Machine

open Sys2Proof

section Product

variable {n : Nat} {c : Config}

theorem getElem_set_stream (m : Streams n) (j l : Fin n) (s : State) :
    (m.set j s)[l] = if j = l then s else m[l] := by
  simp only [Fin.getElem_fin, Vector.getElem_set, Fin.ext_iff]

theorem stepStream_next_iff {j : Fin n} {m a : Streams n} :
    stepStream c j m = .next a ↔ ∃ s, stepWith c m[j] = .next s ∧ m.set j s = a := by
  unfold stepStream
  cases stepWith c m[j] <;> simp

theorem runStreams_cons_next_iff {j : Fin n} {rest : List (Fin n)} {m m' : Streams n} :
    runStreams c (j :: rest) m = .next m' ↔
      ∃ s, stepWith c m[j] = .next s ∧ runStreams c rest (m.set j s) = .next m' := by
  simp only [runStreams, stepStream]
  cases stepWith c m[j] <;> simp

theorem runWith_succ_next_iff {k : Nat} {s t : State} :
    runWith c (k + 1) s = .next t ↔ ∃ s', stepWith c s = .next s' ∧ runWith c k s' = .next t := by
  simp only [runWith, runBy]
  cases stepWith c s <;> simp

/-- The streams' own runs, with the first entry of the schedule taken off. -/
theorem forall_runWith_cons_iff (j : Fin n) (rest : List (Fin n)) (m m' : Streams n) :
    (∀ l, runWith c ((j :: rest).count l) m[l] = .next m'[l]) ↔
      ∃ s, stepWith c m[j] = .next s ∧ ∀ l, runWith c (rest.count l) (m.set j s)[l] = .next m'[l] := by
  constructor
  · intro h
    have hj := h j
    rw [List.count_cons_self, runWith_succ_next_iff] at hj
    obtain ⟨s, hstep, hrun⟩ := hj
    refine ⟨s, hstep, fun l => ?_⟩
    rw [getElem_set_stream]
    split
    case isTrue hl => exact hl ▸ hrun
    case isFalse hl => simpa [List.count_cons_of_ne hl] using h l
  · rintro ⟨s, hstep, hrun⟩ l
    have hl := hrun l
    rw [getElem_set_stream] at hl
    split at hl
    case isTrue he =>
      subst he
      rw [List.count_cons_self]
      exact runWith_succ_next_iff.mpr ⟨s, hstep, hl⟩
    case isFalse hne => rwa [List.count_cons_of_ne hne]

end Product

/-! ### The obligations -/

/-- Settles O20, by induction on the schedule. -/
theorem interleavingGivesEachStreamItsOwnRun : Obligations.InterleavingGivesEachStreamItsOwnRun := by
  intro n c schedule
  induction schedule with
  | nil =>
    intro m m'
    simp only [runStreams, List.count_nil, runWith, runBy, Host.Outcome.next.injEq]
    exact ⟨fun h j => congrArg (·[j]) h, fun h => Vector.ext fun i hi => h ⟨i, hi⟩⟩
  | cons j rest ih =>
    intro m m'
    simp only [runStreams_cons_next_iff, forall_runWith_cons_iff, ih]

/-- Settles O19: each step reads and writes its own place of the product. -/
theorem differentStreamsCommute : Obligations.DifferentStreamsCommute := by
  intro n c m a b j l hne hj hl
  obtain ⟨sj, hstepj, rfl⟩ := stepStream_next_iff.mp hj
  obtain ⟨sl, hstepl, rfl⟩ := stepStream_next_iff.mp hl
  rw [getElem_set_stream, if_neg hne] at hstepl
  refine ⟨m.set l sl, stepStream_next_iff.mpr ⟨sl, hstepl, rfl⟩, stepStream_next_iff.mpr ⟨sj, ?_, ?_⟩⟩
  · rwa [getElem_set_stream, if_neg hne.symm]
  · exact Vector.set_comm _ _ fun h => hne (Fin.ext h.symm)

end Sys2Proof.Machine
end

section
/-!
PROOFS, family other: tables, encoder and decoder. The lookups as inverses of the tables (R59, R61, R62), the bit counts
of what is sent and of what a lookup can find (R91, R101), and `AFTER` at a tie (R73).
-/

namespace Sys2Proof.Machine

open Sys2Proof

/-! ### The inverse table (R59) -/

theorem decPos_eq_some_iff {c : Config} (h2 : c.W2) (v : Sym10) (b : Byte) : decPos c v = some b ↔ c.encPos b = v :=
  ⟨encPos_of_decPos, fun h => h ▸ decPos_encPos h2 b⟩

theorem decPos_eq_none_iff {c : Config} (v : Sym10) : decPos c v = none ↔ ∀ b, c.encPos b ≠ v := by
  refine ⟨encPos_ne_of_decPos_none, fun h => ?_⟩
  cases hdec : decPos c v with
  | none => rfl
  | some b => exact absurd (encPos_of_decPos hdec) (h b)

/-- The numbers that fit a width are as many distinct values of it. -/
theorem nodup_map_ofNat (w : Nat) : ((List.range (2 ^ w)).map (BitVec.ofNat w)).Nodup := by
  refine List.Nodup.map_on (fun x hx y hy h => ?_) List.nodup_range
  simpa [Nat.mod_eq_of_lt (List.mem_range.mp hx), Nat.mod_eq_of_lt (List.mem_range.mp hy)] using
    congrArg BitVec.toNat h

theorem allBytes_nodup : allBytes.Nodup := nodup_map_ofNat 8

theorem allCodes_nodup : allCodes.Nodup := nodup_map_ofNat 10

theorem mem_allCodes (v : Sym10) : v ∈ allCodes :=
  List.mem_map.mpr ⟨v.toNat, List.mem_range.mpr v.isLt, by simp⟩

/-- Under W2 the codes that have a byte are the 256 table values. -/
theorem countP_decPos_isSome {c : Config} (h2 : c.W2) : allCodes.countP (fun v => (decPos c v).isSome) = 256 := by
  have hperm : (allCodes.filter fun v => (decPos c v).isSome).Perm (allBytes.map c.encPos) := by
    refine (List.perm_ext_iff_of_nodup (allCodes_nodup.filter _) (allBytes_nodup.map h2)).mpr fun v => ?_
    simp [mem_allCodes, mem_allBytes, Option.isSome_iff_exists, decPos_eq_some_iff h2]
  rw [List.countP_eq_length_filter, hperm.length_eq]
  simp [allBytes]

theorem countP_decPos_isNone {c : Config} (h2 : c.W2) : allCodes.countP (fun v => (decPos c v).isNone) = 768 := by
  have htotal := List.length_eq_countP_add_countP (fun v => (decPos c v).isSome) (l := allCodes)
  have hlength : allCodes.length = 1024 := by simp [allCodes]
  simp only [Bool.not_eq_true, Option.isSome_eq_false_iff, Bool.decide_eq_true] at htotal
  rw [countP_decPos_isSome h2, hlength] at htotal
  omega

/-! ### The control scans (R61, R62) -/

theorem ctrlByByte_eq_some_iff {c : Config} (h3 : c.W3) (b : Byte) (v : Sym10) :
    ctrlByByte c b = some v ↔ (b, v) ∈ c.ctrlTable := by
  refine ⟨mem_of_scanByByte, fun h => ?_⟩
  cases hscan : ctrlByByte c b with
  | none => exact absurd (List.mem_map_of_mem h) (scanByByte_none_iff.mp hscan)
  | some v' => exact congrArg (some ·.2) (eq_of_nodup_map h3.1 (mem_of_scanByByte hscan) h rfl)

theorem ctrlBySym_eq_some_iff {c : Config} (h3 : c.W3) (b : Byte) (v : Sym10) :
    ctrlBySym c v = some b ↔ (b, v) ∈ c.ctrlTable :=
  ⟨mem_of_scanBySym, ctrlBySym_of_mem h3⟩

/-! ### `AFTER` at Negative (R73) -/

/-- `AFTER` answers Negative for a light symbol, and for a balanced tie entered at Negative; for nothing else. -/
theorem afterSymbol_eq_negative_iff (d : Disparity) (v : Sym10) :
    afterSymbol d v = .negative ↔
      popcount v < 5 ∨ (d = .negative ∧ popcount v = 5 ∧ popcount (sixPart v) = 3) := by
  obtain hlight | htie | hheavy := lt_trichotomy (popcount v) 5
  · simp [afterSymbol_of_light d hlight, hlight]
  · by_cases hsix : popcount (sixPart v) = 3
    · simp [afterSymbol_of_balancedTie d htie hsix, htie, hsix]
    · simp [afterSymbol_of_unbalancedTie d htie hsix, htie, hsix]
  · simp [afterSymbol_of_heavy d hheavy, hheavy.not_gt, hheavy.ne']

/-! ### Bit counts (R91, R101) -/

/-- What the encoder resolves to has 4 to 6 ones, from either table (W5, W8). -/
theorem balancedCount_resolvePositive {c : Config} (h5 : c.W5) (h8 : c.W8) (b : Byte) (k : Bool) :
    Config.BalancedCount (resolvePositive c b k) := by
  obtain ⟨-, hentry⟩ | ⟨-, hdata⟩ := resolvePositive_cases c b k
  · exact (h8 _ hentry).2
  · exact hdata ▸ h5 b

theorem popcount_complement10 (v : Sym10) : popcount (complement10 v) = 10 - popcount v := by
  have := popcount_add_complement v
  omega

/-- A code that either table has after adaptation has 4 to 6 ones. -/
theorem balancedCount_of_lookupSymbol_ok {c : Config} (h5 : c.W5) (h8 : c.W8) {v : Sym10} {d : Disparity}
    {r : Byte × Bool × Disparity} (h : lookupSymbol c v d = .ok r) : Config.BalancedCount v := by
  have hadapted : Config.BalancedCount (withDisparity d v) := by
    unfold lookupSymbol at h
    split at h
    case h_1 kb hctrl => exact (h8 _ (mem_of_scanBySym hctrl)).2
    case h_2 =>
      split at h
      case h_1 => cases h
      case h_2 db hdata => exact encPos_of_decPos hdata ▸ h5 db
  exact withDisparity_withDisparity d v ▸ balancedCount_withDisparity hadapted d

theorem popcount_codeOf {s : U16} (h : s.toNat ≤ 0x3FF) : popcount (codeOf s) = popcount s := by
  rw [← popcount_rawOf, rawOf_codeOf (decide_eq_true h)]

/-- Outside the legal bit counts no lookup succeeds, so the check removes nothing. -/
theorem lookupSymbol_of_unbalanced {c : Config} (h5 : c.W5) (h8 : c.W8) {s : U16} (hr : s.toNat ≤ 0x3FF)
    (hb : popcount s < 4 ∨ 6 < popcount s) (d : Disparity) : (lookupSymbol c (codeOf s) d).toOption = none := by
  cases h : lookupSymbol c (codeOf s) d with
  | error => rfl
  | ok r =>
    obtain ⟨h4, h6⟩ := balancedCount_of_lookupSymbol_ok h5 h8 h
    rw [popcount_codeOf hr] at h4 h6
    omega

/-! ### The response of `DECODE` (R96) -/

/-- The response of the decoder's steps 4 to 6. -/
theorem ofDataWord_lookupSymbol (c : Config) (v : Sym10) (d : Disparity) :
    Response.ofDataWord (lookupSymbol c v d).toOption =
      match ctrlBySym c (withDisparity d v) with
      | some kb => ⟨true, (afterSymbol d v).toBit, 1#1, byteOut kb⟩
      | none =>
        match decPos c (withDisparity d v) with
        | none => Response.absent
        | some db => ⟨true, (afterSymbol d v).toBit, 0#1, byteOut db⟩ := by
  unfold lookupSymbol
  cases ctrlBySym c (withDisparity d v) with
  | some kb => rfl
  | none => cases decPos c (withDisparity d v) <;> rfl

/-! ### The default tables (log 1) -/

theorem popcount_resolvePositive_chip :
    ∀ (b : Byte) (k : Bool), popcount (resolvePositive chip b k) = 4 ∨ popcount (resolvePositive chip b k) = 5 :=
  byte_cases (by decide +kernel)

/-- 0x01 at Negative is a tie that goes to Positive, and 0x03 there a light symbol that comes back: two more zeros than
ones for the pair. -/
theorem threadEncode_chip_pair (ws : List (Byte × Bool)) :
    threadEncode chip .negative ((0x01#8, false) :: (0x03#8, false) :: ws) =
      ((0x1D4#10, .positive) :: (0x314#10, .negative) :: (threadEncode chip .negative ws).1,
        (threadEncode chip .negative ws).2) := rfl

/-! ### The obligations -/

/-- Settles O21: the codes with a byte are the image of 256 bytes under an injective table. -/
theorem decPosIsInverseOfEncPos : Obligations.DecPosIsInverseOfEncPos :=
  fun _ h2 => ⟨decPos_eq_some_iff h2, decPos_eq_none_iff, countP_decPos_isSome h2, countP_decPos_isNone h2,
    fun h4 p hp => (decPos_eq_none_iff p.2).mpr fun b => (h4 p hp b).symm⟩

/-- Settles O22: a hit is an entry, and the keys of the entries are distinct. -/
theorem controlScansFindTheEntries : Obligations.ControlScansFindTheEntries :=
  fun _ h3 => ⟨ctrlByByte_eq_some_iff h3, ctrlBySym_eq_some_iff h3⟩

/-- Settles O25: the two sub-blocks share five ones, and of a code and its complement the low six bits share six. -/
theorem negativeTieBranchIsDead : Obligations.NegativeTieBranchIsDead := by
  refine ⟨fun v htie => ?_, fun d v => (afterSymbol_eq_negative_iff d v).mp, fun d v htie hsix => ?_⟩
  · have := popcount_split v
    omega
  · have htie' : popcount (complement10 v) = 5 := by rw [popcount_complement10, htie]
    have hsix' : popcount (sixPart (complement10 v)) ≠ 3 := by
      have := popcount_sixPart_add_complement v
      omega
    exact ⟨htie', hsix', afterSymbol_of_unbalancedTie d htie hsix, afterSymbol_of_unbalancedTie d htie' hsix'⟩

/-- Settles O36: both tables hold symbols of 4 to 6 ones, and a complement counts the rest of ten. -/
theorem encodedOnesStayInBand : Obligations.EncodedOnesStayInBand :=
  fun _ h5 h8 b k => ⟨balancedCount_resolvePositive h5 h8 b k, rfl, popcount_complement10 _⟩

/-- Settles O38: the flagged comma byte resolves to its entry (W6), which is light at Positive and heavy at Negative. -/
theorem encodedCommaFlips : Obligations.EncodedCommaFlips := by
  intro c hc d
  have hpos : resolvePositive c c.commaByte true = commaPos := resolvePositive_of_mem hc.w3 hc.w6
  simp only [encodeByte, hpos, afterSymbol_withDisparity_commaPos]

/-- Settles O41, by the four cases of the decoder: they differ outside the legal bit counts only, where the lookup
fails too. -/
theorem strictAndLoosePathsAgree : Obligations.StrictAndLoosePathsAgree := by
  intro c h5 h8 s d
  by_cases hcomma : isComma s = true
  · simp [decodeLoose, hcomma, decodeSymbol_of_isComma hcomma]
  rw [Bool.not_eq_true] at hcomma
  obtain hr | hr := Nat.lt_or_ge 0x3FF s.toNat
  · simp [decodeSymbol, decodeLoose, decodeChecked_of_lt hr, hcomma, inRange, hr, Except.toOption]
  have hloose : decodeLoose c s d = (lookupSymbol c (codeOf s) d).toOption := by
    simp [decodeLoose, hcomma, inRange, hr]
  rw [hloose]
  by_cases hb : popcount s < 4 ∨ 6 < popcount s
  · rw [lookupSymbol_of_unbalanced h5 h8 hr hb, decodeSymbol, decodeChecked_of_unbalanced hr hb]
    rfl
  · rw [decodeSymbol, decodeChecked_of_balanced hcomma hr (by omega) (by omega)]

/-- Settles O40, by the four cases of the decoder. -/
theorem decodeAnswersBySixSteps : Obligations.DecodeAnswersBySixSteps := by
  refine ⟨fun d sym s => ?_, fun d sym => (Laws.OpField.decode d sym).1, by decide +kernel, by decide +kernel,
    by decide +kernel⟩
  have hexec : exec (.decode d sym) s = .next (s.deliver (Response.ofDataWord (decodeChecked chip sym d).toOption)) :=
    rfl
  rw [hexec]
  refine congrArg (fun r => Host.Outcome.next (s.deliver r)) ?_
  by_cases hcomma : isComma sym = true
  · rw [decodeChecked_of_isComma hcomma, if_pos ((isComma_iff sym).mp hcomma)]
    rfl
  rw [if_neg (mt (isComma_iff sym).mpr hcomma)]
  rw [Bool.not_eq_true] at hcomma
  obtain hr | hr := Nat.lt_or_ge 0x3FF sym.toNat
  · rw [decodeChecked_of_lt hr, if_pos hr]
    rfl
  rw [if_neg hr.not_gt]
  by_cases hb : popcount sym < 4 ∨ 6 < popcount sym
  · rw [decodeChecked_of_unbalanced hr hb, if_pos hb]
    rfl
  · rw [decodeChecked_of_balanced hcomma hr (by omega) (by omega), if_neg hb, ofDataWord_lookupSymbol]
    rfl

/-- Settles O30: a default symbol has four or five ones, so its complement has six or five. -/
theorem defaultEncoderSymbolClasses : Obligations.DefaultEncoderSymbolClasses := by
  intro b k
  have hpos : (encodeByte chip b k .positive).1 = resolvePositive chip b k := rfl
  have hneg : popcount (encodeByte chip b k .negative).1 = 10 - popcount (resolvePositive chip b k) :=
    popcount_complement10 _
  have hnext : ∀ d, (encodeByte chip b k d).2 = afterSymbol d (encodeByte chip b k d).1 := fun _ => rfl
  have hcount := popcount_resolvePositive_chip b k
  simp only [hnext, afterSymbol_eq_negative_iff, hpos, hneg]
  simp only [reduceCtorEq, true_and, false_and, or_false]
  omega

/-- Settles O58, by induction on the number of pairs. -/
theorem runningSumDriftsWithoutBound : Obligations.RunningSumDriftsWithoutBound := by
  intro n
  induction n with
  | zero => exact ⟨rfl, rfl⟩
  | succ n ih =>
    obtain ⟨hsum, hend⟩ := ih
    have hpair : excess 0x1D4#10 + excess 0x314#10 = -2 := by decide
    simp only [List.replicate_succ, List.flatten_cons, List.cons_append, List.nil_append, threadEncode_chip_pair]
    refine ⟨?_, hend⟩
    simp only [runningSum, List.map_cons, List.sum_cons] at hsum ⊢
    rw [hsum]
    push_cast
    omega

end Sys2Proof.Machine
end
